-- ==== Sys2Proof/Word.lean ====
section
/-!
DEFINITION. The word types of the QFVC (00_scope.md R11 to R13): a byte, a byte string, a byte string of a fixed
length, the 32-bit word of the register space. Every quantity is unsigned (R12, R50).
-/

namespace Sys2Proof

/-- A byte: 8 bits, value 0 to 255 (R11). -/
abbrev Byte := BitVec 8

/-- A scalar register as the host sees it, and a command word: 32 bits (R27, R90). -/
abbrev Word := BitVec 32

/-- A byte string: a finite sequence of bytes, the first at index 0 (R11). -/
abbrev ByteString := List Byte

/-- A byte string of exactly `n` bytes: the content of a register whose size the spec fixes (R35). -/
abbrev Bytes (n : Nat) := { s : ByteString // s.length = n }

/-- `zeros(n)` of R11. -/
def zeros (n : Nat) : ByteString := List.replicate n 0#8

/-- The first `n` bytes of `s`, zeros after its end: how a string is put into a register of `n` bytes. Where `s` has at
least `n` bytes, as in every use that follows a length check of the spec, it is `s.take n` (`Laws/Bytes.lean`). -/
def Bytes.ofList (n : Nat) (s : ByteString) : Bytes n :=
  ⟨(s ++ zeros n).take n, by simp [zeros]⟩

/-- The register of `n` bytes at its reset value (R370). -/
def Bytes.zero (n : Nat) : Bytes n := ⟨zeros n, by simp [zeros]⟩

end Sys2Proof
end

