-- ==== Sys2Proof/Syntax.lean ====
section
/-!
DEFINITION. The instruction set of the QFVC: one constructor for each row of spec/opcode_table.json. No row has an
operand field: every operand is implicit (R90, R94), so every constructor is a constant.
-/

namespace Sys2Proof

/-- The five commands (R92) and the twenty-eight micro-operations (R96), in the table's order. -/
inductive Instr where
  /-- `CONFIG` (R130) -/
  | config
  /-- `ENCRYPT` (R230) -/
  | encrypt
  /-- `ENCRYPT.V`: ENCRYPT with the version override in VTAG (R230) -/
  | encryptV
  /-- `DECRYPT` (R250) -/
  | decrypt
  /-- `DECRYPT.V`: DECRYPT with the version override in VTAG (R250) -/
  | decryptV
  /-- `IDLE`: no command running (R24) -/
  | idle
  /-- `DECODE`: classify the command word (R93) -/
  | decode
  /-- `C_CHECK`: validate the staged configuration (R131) -/
  | cCheck
  /-- `C_COMMIT`: copy the staging area into the Config (R132) -/
  | cCommit
  /-- `E_CHECK`: entry checks of ENCRYPT (R231) -/
  | eCheck
  /-- `RNG`: draw the IV (R232) -/
  | rng
  /-- `KDF_INIT`: first PRF call of the key derivation (R154) -/
  | kdfInit
  /-- `KDF_ITER`: one further iteration (R155) -/
  | kdfIter
  /-- `KDF_DONE`: the derived key is complete (R157) -/
  | kdfDone
  /-- `PAD`: size-pad the plaintext (R170) -/
  | pad
  /-- `CBCE`: CBC-encrypt (R193) -/
  | cbce
  /-- `B64E`: base64-encode the IV and the cipher bytes (R212) -/
  | b64e
  /-- `TAGPUT`: prefix the tag (R216) -/
  | tagput
  /-- `D_CHECK`: entry checks of DECRYPT (R251) -/
  | dCheck
  /-- `TAGSPLIT`: split the leading 6 bytes (R217) -/
  | tagsplit
  /-- `SELECT`: the legacy-format selector and fallback dispatcher (R254) -/
  | select
  /-- `D_KEYCHK`: master-key length check of the current path (R257) -/
  | dKeychk
  /-- `B64D`: base64-decode the payload (R213) -/
  | b64d
  /-- `IVSPLIT`: split the decoded payload into IV and cipher bytes (R259) -/
  | ivsplit
  /-- `CBCD`: CBC-decrypt (R194) -/
  | cbcd
  /-- `UNPAD`: validate and strip size-padding (R172) -/
  | unpad
  /-- `L_KEYFIT`: zero-pad the legacy key to 16, 24 or 32 bytes (R281) -/
  | lKeyfit
  /-- `L_B64D`: base64-decode the entire string (R283) -/
  | lB64d
  /-- `L_SPLIT`: split prefix and trailer, accumulate the length (R284) -/
  | lSplit
  /-- `L_CBCD`: CBC-decrypt the prefix with the zero IV (R286) -/
  | lCbcd
  /-- `L_TRUNC`: truncate to the recorded length (R287) -/
  | lTrunc
  /-- `FINISH`: successful end of a command (R345) -/
  | finish
  /-- `FAIL`: end of a command by `raise` (R344) -/
  | fail
deriving DecidableEq, Repr

/-- The two kinds of code the opcode table holds: a 32-bit command word written to CMD (format `C`, R90), or a 5-bit
value of PHASE (format `UOP`, R96). -/
inductive Code where
  | command (w : Word)
  | phase (c : BitVec 5)
deriving DecidableEq, Repr

end Sys2Proof
end

