-- ==== Sys2Proof/Decode.lean ====
section
/-!
DEFINITION. The decoder of the command word (30_encoding.md R90 to R93) and of the phase codes (R96), total, refusing
by name; the phase codes; and, after them, the encoder, written from the same two tables.
-/

namespace Sys2Proof

/-- `OPC`, bits 7:0 of a command word (R91). -/
def opcField (w : Word) : BitVec 8 := w.extractLsb' 0 8

/-- `V`, bit 8 of a command word (R91). -/
def vField (w : Word) : Bool := w.getLsbD 8

/-- `RSV`, bits 31:9 of a command word (R91). -/
def rsvField (w : Word) : BitVec 23 := w.extractLsb' 9 23

/-- Why a word is not a legal command (R93): the sub-causes BAD_OPC and BAD_BITS of `IllegalCommand`. -/
inductive CommandReject where
  | badOpc
  | badBits
deriving DecidableEq, Repr

/-- The command a word stands for, or the reason why it stands for none, in the order of R93: the operation code
first, then the reserved bits and V on CONFIG. -/
def decodeCommand (w : Word) : Except CommandReject Instr :=
  if opcField w ≠ 0x01#8 ∧ opcField w ≠ 0x02#8 ∧ opcField w ≠ 0x03#8 then .error .badOpc
  else if rsvField w ≠ 0#23 ∨ (opcField w = 0x01#8 ∧ vField w = true) then .error .badBits
  else if opcField w = 0x01#8 then .ok .config
  else if opcField w = 0x02#8 then .ok (if vField w then .encryptV else .encrypt)
  else .ok (if vField w then .decryptV else .decrypt)

/-- The micro-operation a value of PHASE stands for; codes 28 to 31 are reserved (R96). -/
def decodePhase (c : BitVec 5) : Option Instr :=
  match c.toNat with
  | 0 => some .idle
  | 1 => some .decode
  | 2 => some .cCheck
  | 3 => some .cCommit
  | 4 => some .eCheck
  | 5 => some .rng
  | 6 => some .kdfInit
  | 7 => some .kdfIter
  | 8 => some .kdfDone
  | 9 => some .pad
  | 10 => some .cbce
  | 11 => some .b64e
  | 12 => some .tagput
  | 13 => some .dCheck
  | 14 => some .tagsplit
  | 15 => some .select
  | 16 => some .dKeychk
  | 17 => some .b64d
  | 18 => some .ivsplit
  | 19 => some .cbcd
  | 20 => some .unpad
  | 21 => some .lKeyfit
  | 22 => some .lB64d
  | 23 => some .lSplit
  | 24 => some .lCbcd
  | 25 => some .lTrunc
  | 26 => some .finish
  | 27 => some .fail
  | _ => none

/-- The instruction of a code of either kind. -/
def decode : Code → Option Instr
  | .command w => (decodeCommand w).toOption
  | .phase c => decodePhase c

/-- The instruction read from the bits `w` of a table row of `nbits` bits. The two formats are told apart by their
width alone: a micro-operation has 5 bits (8 in whole bytes), a command 32. Both are registers reached whole, so no
byte order enters (R64). -/
def decodeTableWord (nbits w : Nat) : Option Instr :=
  if nbits ≤ 8 then
    if w < 2 ^ 5 then decode (.phase (BitVec.ofNat 5 w)) else none
  else
    if w < 2 ^ 32 then decode (.command (BitVec.ofNat 32 w)) else none

/-- Code of phase `IDLE` (R96). -/
def Phase.idle : BitVec 5 := 0#5
/-- Code of phase `DECODE` (R96). -/
def Phase.decode : BitVec 5 := 1#5
/-- Code of phase `C_CHECK` (R96). -/
def Phase.cCheck : BitVec 5 := 2#5
/-- Code of phase `C_COMMIT` (R96). -/
def Phase.cCommit : BitVec 5 := 3#5
/-- Code of phase `E_CHECK` (R96). -/
def Phase.eCheck : BitVec 5 := 4#5
/-- Code of phase `RNG` (R96). -/
def Phase.rng : BitVec 5 := 5#5
/-- Code of phase `KDF_INIT` (R96). -/
def Phase.kdfInit : BitVec 5 := 6#5
/-- Code of phase `KDF_ITER` (R96). -/
def Phase.kdfIter : BitVec 5 := 7#5
/-- Code of phase `KDF_DONE` (R96). -/
def Phase.kdfDone : BitVec 5 := 8#5
/-- Code of phase `PAD` (R96). -/
def Phase.pad : BitVec 5 := 9#5
/-- Code of phase `CBCE` (R96). -/
def Phase.cbce : BitVec 5 := 10#5
/-- Code of phase `B64E` (R96). -/
def Phase.b64e : BitVec 5 := 11#5
/-- Code of phase `TAGPUT` (R96). -/
def Phase.tagput : BitVec 5 := 12#5
/-- Code of phase `D_CHECK` (R96). -/
def Phase.dCheck : BitVec 5 := 13#5
/-- Code of phase `TAGSPLIT` (R96). -/
def Phase.tagsplit : BitVec 5 := 14#5
/-- Code of phase `SELECT` (R96). -/
def Phase.select : BitVec 5 := 15#5
/-- Code of phase `D_KEYCHK` (R96). -/
def Phase.dKeychk : BitVec 5 := 16#5
/-- Code of phase `B64D` (R96). -/
def Phase.b64d : BitVec 5 := 17#5
/-- Code of phase `IVSPLIT` (R96). -/
def Phase.ivsplit : BitVec 5 := 18#5
/-- Code of phase `CBCD` (R96). -/
def Phase.cbcd : BitVec 5 := 19#5
/-- Code of phase `UNPAD` (R96). -/
def Phase.unpad : BitVec 5 := 20#5
/-- Code of phase `L_KEYFIT` (R96). -/
def Phase.lKeyfit : BitVec 5 := 21#5
/-- Code of phase `L_B64D` (R96). -/
def Phase.lB64d : BitVec 5 := 22#5
/-- Code of phase `L_SPLIT` (R96). -/
def Phase.lSplit : BitVec 5 := 23#5
/-- Code of phase `L_CBCD` (R96). -/
def Phase.lCbcd : BitVec 5 := 24#5
/-- Code of phase `L_TRUNC` (R96). -/
def Phase.lTrunc : BitVec 5 := 25#5
/-- Code of phase `FINISH` (R96). -/
def Phase.finish : BitVec 5 := 26#5
/-- Code of phase `FAIL` (R96). -/
def Phase.fail : BitVec 5 := 27#5

/-- A command word from its fields (R90): `OPC` in bits 7:0, `V` in bit 8, the reserved bits zero. -/
def commandWord (opc : BitVec 8) (v : Bool) : Word := 0#23 ++ (BitVec.ofBool v ++ opc)

/-- The code of each instruction: the word column of R92 for the commands, the code column of R96 for the
micro-operations. -/
def encode : Instr → Code
  | .config => .command (commandWord 0x01#8 false)
  | .encrypt => .command (commandWord 0x02#8 false)
  | .encryptV => .command (commandWord 0x02#8 true)
  | .decrypt => .command (commandWord 0x03#8 false)
  | .decryptV => .command (commandWord 0x03#8 true)
  | .idle => .phase Phase.idle
  | .decode => .phase Phase.decode
  | .cCheck => .phase Phase.cCheck
  | .cCommit => .phase Phase.cCommit
  | .eCheck => .phase Phase.eCheck
  | .rng => .phase Phase.rng
  | .kdfInit => .phase Phase.kdfInit
  | .kdfIter => .phase Phase.kdfIter
  | .kdfDone => .phase Phase.kdfDone
  | .pad => .phase Phase.pad
  | .cbce => .phase Phase.cbce
  | .b64e => .phase Phase.b64e
  | .tagput => .phase Phase.tagput
  | .dCheck => .phase Phase.dCheck
  | .tagsplit => .phase Phase.tagsplit
  | .select => .phase Phase.select
  | .dKeychk => .phase Phase.dKeychk
  | .b64d => .phase Phase.b64d
  | .ivsplit => .phase Phase.ivsplit
  | .cbcd => .phase Phase.cbcd
  | .unpad => .phase Phase.unpad
  | .lKeyfit => .phase Phase.lKeyfit
  | .lB64d => .phase Phase.lB64d
  | .lSplit => .phase Phase.lSplit
  | .lCbcd => .phase Phase.lCbcd
  | .lTrunc => .phase Phase.lTrunc
  | .finish => .phase Phase.finish
  | .fail => .phase Phase.fail

end Sys2Proof
end

