-- ==== Sys2Proof/Config.lean ====
section
/-!
DEFINITION. What an implementation of the QFVC fixes (00_scope.md R9, R10; none of it is state, R21) and the free
values, each an opaque constant. The instantiation the machine runs is `Machine/Params.lean`.
-/

namespace Sys2Proof.Config

/-- The block cipher as a parameter (R191): from a key and a 16-byte block to a 16-byte block, both ways. Keys are
byte strings; the cipher is defined for keys of 16, 24 and 32 bytes only (`ValidKey`). -/
structure BlockCipher where
  enc : ByteString → Bytes 16 → Bytes 16
  dec : ByteString → Bytes 16 → Bytes 16

/-- The key lengths for which the block cipher is defined (R190, R191). -/
abbrev ValidKey (k : ByteString) : Prop := k.length = 16 ∨ k.length = 24 ∨ k.length = 32

/-- The two inverse laws of R191, the only properties of the block cipher a claim may assume (R321). -/
def BlockCipher.Lawful (bc : BlockCipher) : Prop :=
  ∀ k, ValidKey k → ∀ x, bc.dec k (bc.enc k x) = x ∧ bc.enc k (bc.dec k x) = x

/-- The parameters of R10. `prf` is the pseudo-random function of the three-phase state machine that exists only
under the default key-derivation function (R153). -/
structure Params where
  /-- `IN_MAX`: capacity of INBUF -/
  inMax : Nat
  /-- `OUT_MAX`: capacity of OUTBUF -/
  outMax : Nat
  /-- `MKEY_MAX`: capacity of the master-key store -/
  mkeyMax : Nat
  /-- `LKEY_MAX`: capacity of one legacy-key store -/
  lkeyMax : Nat
  /-- `NLEG_MAX`: number of legacy-key slots -/
  nlegMax : Nat
  /-- `STAG_MAX`: capacity of one staged tag -/
  stagMax : Nat
  /-- `ELEN_BITS`: width of the legacy length accumulator -/
  elenBits : Nat
  /-- `NENG`: number of engines sharing one Config; the machine is written for 1 (log 8) -/
  neng : Nat
  /-- `BC` (R191) -/
  bc : BlockCipher
  /-- `KDFN` (R151) -/
  kdfn : ByteString → ByteString → Bytes 32
  /-- `PRF` of the default KDFN (R153) -/
  prf : ByteString → ByteString → Bytes 32
  /-- `B64_IGNORE_CRLF` -/
  b64IgnoreCrlf : Bool
  /-- `B64_STRICT_TRAILING` -/
  b64StrictTrailing : Bool
  /-- `ZPAD_ALIGNED_ADDS_BLOCK` -/
  zpadAlignedAddsBlock : Bool

/-- The least capacity of OUTBUF that R10 allows for an input capacity: the longest ENCRYPT output. -/
def outBound (inMax : Nat) : Nat := 6 + 4 * ((32 + 16 * (inMax / 16) + 2) / 3)

/-- The constraint column of R10's table. -/
structure Params.Ok (p : Params) : Prop where
  inMax : 64 ≤ p.inMax
  outMax : outBound p.inMax ≤ p.outMax ∧ p.inMax ≤ p.outMax
  mkeyMax : 32 ≤ p.mkeyMax
  lkeyMax : 32 ≤ p.lkeyMax
  nlegMax : 1 ≤ p.nlegMax
  stagMax : p.stagMax = 255
  elenBits : 120 ≤ p.elenBits
  neng : 1 ≤ p.neng
  bc : p.bc.Lawful

/-- Default of `IN_MAX` (R10). -/
def inMaxDefault : Nat := 65535
/-- Default of `MKEY_MAX` (R10). -/
def mkeyMaxDefault : Nat := 256
/-- Default of `LKEY_MAX` (R10). -/
def lkeyMaxDefault : Nat := 256
/-- Default of `NLEG_MAX` (R10). -/
def nlegMaxDefault : Nat := 8

/-- `TAG_LEN` (R9). -/
def tagLen : Nat := 6
/-- `KDF_ITER` of R9: the number of PRF calls of one derivation. -/
def kdfIterations : Nat := 10000
/-- `MKEY_MIN` (R9). -/
def mkeyMin : Nat := 32
/-- `RESERVED_TAG` (R9): ASCII `ZeroVe`. -/
def reservedTag : Bytes 6 := ⟨[0x5a#8, 0x65#8, 0x72#8, 0x6f#8, 0x56#8, 0x65#8], rfl⟩

/-- What the random source answers to draw number `n` of a run when the step's event names no answer: a free value under no
law (R45, U3; log 3). -/
opaque draw : Nat → ByteString

/-- What CBC_ENC gives for a string that is no whole number of blocks, from the key, the IV and the string: R193 defines none
(log 23). -/
opaque unalignedCbc : ByteString → ByteString → ByteString → ByteString

/-- What the default block cipher gives for a key of another length than 16, 24 or 32, first argument 0 for `enc` and
1 for `dec`: R191 defines none (log 9). -/
opaque undefinedCipher : Nat → ByteString → ByteString → ByteString

/-- The key L_KEYFIT takes when the legacy table holds no `ZeroVe` entry, a case SELECT never lets through (R254,
R281; log 10). Its argument is the list of the table's tags. -/
opaque absentLegacyKey : List ByteString → ByteString

/-- What the 32-bit OUT_LEN holds after a result of `n` bytes, `n` being 2^32 or more: R10 bounds IN_MAX and OUT_MAX only from
below, and no rule says (R13, R27, R345; log 27). -/
opaque overlongOutLen : Nat → BitVec 32

end Sys2Proof.Config
end

