-- ==== Sys2Proof/Machine/State.lean ====
section
/-!
DEFINITION. The state of the QFVC as plain data (10_state.md, 60_exceptions.md), its value after reset (R370), and the
reasons a step can stop. Length registers that only restate the length of a stored byte string are views, not fields
(log 12).
-/

namespace Sys2Proof.Machine

/-- One buffer space (R31, R60): the offsets that hold a byte other than `Memory.unlisted`, rising. -/
abbrev Memory := List Host.Cell

/-- What an offset that is not listed reads as: 00, the content R370 gives every buffer at reset. -/
def Memory.unlisted : Byte := 0#8

/-- The canonical form: offsets strictly rising, no entry equal to what an unlisted offset reads as. -/
abbrev Memory.wf (m : Memory) : Prop :=
  m.Pairwise (fun a b => a.1 < b.1) ∧ ∀ c ∈ m, c.2 ≠ Memory.unlisted

/-- Every listed offset lies in a space of `n` bytes (R60). -/
abbrev Memory.within (m : Memory) (n : Nat) : Prop := ∀ c ∈ m, c.1 < n

/-- The sixteen (KIND, SUB) pairs of R332. The source's six kinds and the spec's two (R331). -/
inductive ErrorCause where
  /-- `InvalidTagLength(CUR)` -/
  | tagLengthCur
  /-- `InvalidTagLength(LEG)` -/
  | tagLengthLeg
  /-- `KeyTooShort` -/
  | keyTooShort
  /-- `MalformedCiphertext(TAG_SHORT)` -/
  | tagShort
  /-- `MalformedCiphertext(B64_INVALID)` -/
  | b64Invalid
  /-- `MalformedCiphertext(IV_SHORT)` -/
  | ivShort
  /-- `PaddingInvalid` -/
  | paddingInvalid
  /-- `UnsupportedVersion` -/
  | unsupportedVersion
  /-- `DecryptFailed(CBC_NOT_ALIGNED)` -/
  | cbcNotAligned
  /-- `DecryptFailed(UNPAD_EMPTY)` -/
  | unpadEmpty
  /-- `DecryptFailed(LEGACY_KEY_TOO_LONG)` -/
  | legacyKeyTooLong
  /-- `DecryptFailed(ELEN_RANGE)` -/
  | elenRange
  /-- `NotConfigured` -/
  | notConfigured
  /-- `IllegalCommand(BAD_OPC)` -/
  | badOpc
  /-- `IllegalCommand(BAD_BITS)` -/
  | badBits
  /-- `IllegalCommand(BAD_LEN)` -/
  | badLen
deriving DecidableEq, Repr

/-- `STATUS.PATH`: the branch the last DECRYPT took (R28). The value 3 never occurs and has no constructor (U12). -/
inductive Path where
  | noBranch
  | current
  | legacy
deriving DecidableEq, Repr

/-- One entry of the Config's legacy table: `LTAG[i]` and `LKEY[i]` with its length (R22). -/
structure LegacyEntry where
  tag : Bytes 6
  key : ByteString
deriving DecidableEq, Repr

/-- The Config (R22): `CFG_VALID`, `CUR_TAG`, `MKEY` with its length `MKEY_LEN`, the legacy table with its length
`NLEG`. -/
structure CommittedConfig where
  valid : Bool
  curTag : Bytes 6
  mkey : ByteString
  legacy : List LegacyEntry
deriving DecidableEq, Repr

/-- One slot of the staging area (R27, R31): `S_LTAG_LEN[i]`, `S_LKEY_LEN[i]`, `S_LTAG[i]`, `S_LKEY[i]`. -/
structure StagedEntry where
  tagLen : BitVec 8
  keyLen : BitVec 16
  tag : Memory
  key : Memory
deriving DecidableEq, Repr

/-- The working registers (R35). `WORK_LEN` and `LKFIT_LEN` are the lengths of `work` and `lkfit`. -/
structure WorkRegs where
  /-- `IVR`: the IV, which doubles as salt -/
  ivr : Bytes 16
  /-- `DKEY`: the derived working key -/
  dkey : Bytes 32
  /-- `KDF_U`: last PRF output -/
  kdfU : Bytes 32
  /-- `KDF_T`: running exclusive-or -/
  kdfT : Bytes 32
  /-- `KDF_I`: iterations done -/
  kdfI : BitVec 14
  /-- `LKFIT`: legacy key after zero-padding -/
  lkfit : ByteString
  /-- `TAGR`: leading 6 bytes of the ciphertext string -/
  tagr : Bytes 6
  /-- `EXPECT`: expected tag -/
  expected : Bytes 6
  /-- `WORK`: the value flowing between micro-operations -/
  work : ByteString
  /-- `ELEN`: legacy true plaintext length -/
  elen : Nat
  /-- `PLEN`: length of the block-aligned prefix -/
  plen : Nat
  /-- The error code a `raise` carries to phase FAIL (implied by R344; log 5) -/
  raisedCode : BitVec 8
deriving DecidableEq, Repr

/-- What happens next, as the host and the platform decide it (R18; log 2). -/
inductive HostEvent where
  /-- the engine runs one phase; `answer` is what the random source answers if the phase draws (R21, R45) -/
  | engine (answer : Option (Bytes 16))
  /-- `HostReadReg(n)` (R27) -/
  | readReg (n : Nat)
  /-- `HostWriteReg(n, v)` (R27); `n = 0` is the CMD write of R72, whose phases then follow one by one -/
  | writeReg (n : Nat) (v : Word)
  /-- `HostReadBuf(space, off)` (R68) -/
  | readBuf (space off : Nat)
  /-- `HostWriteBuf(space, off, b)` (R68) -/
  | writeBuf (space off : Nat) (b : Byte)
  /-- the host writes `w` to CMD and touches nothing until the command is done: the whole command in one step (R72); `answer`
  is what the random source answers if the command draws (R21, R45, `iv=` of R104) -/
  | command (w : Word) (answer : Option (Bytes 16))
  /-- the host, having read OUT_LEN, goes on to read that many bytes of OUTBUF (R105) -/
  | readResult
  /-- the reset event (R370) -/
  | reset
deriving DecidableEq, Repr

/-- The state of the QFVC. -/
structure State where
  /-- `CMDREG` (R26) -/
  cmdReg : Word
  /-- `STATUS.BUSY` (R28) -/
  stBusy : Bool
  /-- `STATUS.DONE` (R28) -/
  stDone : Bool
  /-- `STATUS.ERR` (R28) -/
  stErr : Bool
  /-- `STATUS.PATH` (R28) -/
  stPath : Path
  /-- `PHASE`, the program counter (R24) -/
  phase : BitVec 5
  /-- `ERRCODE` (R29) -/
  errCode : BitVec 8
  /-- `IN_LEN` (R30) -/
  inLen : Word
  /-- `OUT_LEN` (R30) -/
  outLen : Word
  /-- `S_CUR_TAG_LEN` (R27) -/
  sCurTagLen : BitVec 8
  /-- `S_MKEY_LEN` (R27) -/
  sMkeyLen : BitVec 16
  /-- `S_NLEG` (R27) -/
  sNleg : BitVec 8
  /-- `INBUF` (R31) -/
  inbuf : Memory
  /-- `OUTBUF` (R31) -/
  outbuf : Memory
  /-- `VTAG` (R31, R32) -/
  vtag : Memory
  /-- `S_CUR_TAG` (R31) -/
  sCurTag : Memory
  /-- `S_MKEY` (R31) -/
  sMkey : Memory
  /-- the `NLEG_MAX` slots of the staged legacy table (R27, R31) -/
  staged : List StagedEntry
  /-- the Config (R22) -/
  cfg : CommittedConfig
  /-- the working registers (R35) -/
  wk : WorkRegs
  /-- the MODEL's own: how many draws were made so far (R45; log 3) -/
  draws : Nat
  /-- the MODEL's own: the host events and engine turns still to come (log 2) -/
  agenda : List HostEvent
  /-- the MODEL's own: the value the host's latest read returned (log 4) -/
  hostData : Word
deriving DecidableEq, Repr

/-- Why the machine stops. -/
inductive Fault where
  /-- Raised by `step` alone, when the engine is to run a phase and PHASE holds one of the codes 28 to 31, which R96
  reserves ("never taken by PHASE"). Safe: no state that a run reaches holds one (log 11). -/
  | reservedPhase
deriving DecidableEq, Repr

/-- Why an instruction has no meaning. -/
inductive Refusal where
  /-- An arm of `exec` whose instruction has no meaning yet. Safe: the run stops. No arm answers it. -/
  | notModelled (mnemonic : String)
deriving DecidableEq, Repr

/-- The Config after reset: none (R370). -/
def CommittedConfig.reset : CommittedConfig :=
  { valid := false, curTag := Bytes.zero 6, mkey := [], legacy := [] }

/-- A staging slot after reset (R370). -/
def StagedEntry.reset : StagedEntry := { tagLen := 0#8, keyLen := 0#16, tag := [], key := [] }

/-- The working registers after reset: zero (R370; `raisedCode` log 5). -/
def WorkRegs.reset : WorkRegs :=
  { ivr := Bytes.zero 16, dkey := Bytes.zero 32, kdfU := Bytes.zero 32, kdfT := Bytes.zero 32, kdfI := 0#14, lkfit := [],
    tagr := Bytes.zero 6, expected := Bytes.zero 6, work := [], elen := 0, plen := 0, raisedCode := 0#8 }

/-- A machine with `nlegMax` staging slots right after reset (R370): every element zero, the sequencer in IDLE, no Config.
The model's own three fields start empty or 0 (logs 2, 3, 4). -/
def State.resetWith (nlegMax : Nat) : State :=
  { cmdReg := 0#32, stBusy := false, stDone := false, stErr := false, stPath := .noBranch, phase := 0#5, errCode := 0#8,
    inLen := 0#32, outLen := 0#32, sCurTagLen := 0#8, sMkeyLen := 0#16, sNleg := 0#8,
    inbuf := [], outbuf := [], vtag := [], sCurTag := [], sMkey := [],
    staged := List.replicate nlegMax StagedEntry.reset,
    cfg := CommittedConfig.reset, wk := WorkRegs.reset,
    draws := 0, agenda := [], hostData := 0#32 }

/-- The machine right after reset, at the default of `NLEG_MAX` (R10, R370). -/
def State.reset : State := State.resetWith Config.nlegMaxDefault

end Sys2Proof.Machine
end

