-- ==== Sys2Proof/Machine/Flags.lean ====
section
/-!
DEFINITION. The flags of the QFVC: the code of every error (R331, R332), the fields of ERRCODE (R29), and the image of
STATUS (R28).
-/

namespace Sys2Proof.Machine

/-- `KIND`, bits 3:0 of ERRCODE (R331). -/
def ErrorCause.kind : ErrorCause → BitVec 4
  | .tagLengthCur => 1#4
  | .tagLengthLeg => 1#4
  | .keyTooShort => 2#4
  | .tagShort => 3#4
  | .b64Invalid => 3#4
  | .ivShort => 3#4
  | .paddingInvalid => 4#4
  | .unsupportedVersion => 5#4
  | .cbcNotAligned => 6#4
  | .unpadEmpty => 6#4
  | .legacyKeyTooLong => 6#4
  | .elenRange => 6#4
  | .notConfigured => 8#4
  | .badOpc => 9#4
  | .badBits => 9#4
  | .badLen => 9#4

/-- `SUB`, bits 7:4 of ERRCODE (R332). -/
def ErrorCause.sub : ErrorCause → BitVec 4
  | .tagLengthCur => 1#4
  | .tagLengthLeg => 2#4
  | .keyTooShort => 0#4
  | .tagShort => 1#4
  | .b64Invalid => 2#4
  | .ivShort => 3#4
  | .paddingInvalid => 0#4
  | .unsupportedVersion => 0#4
  | .cbcNotAligned => 1#4
  | .unpadEmpty => 2#4
  | .legacyKeyTooLong => 3#4
  | .elenRange => 4#4
  | .notConfigured => 0#4
  | .badOpc => 1#4
  | .badBits => 2#4
  | .badLen => 3#4

/-- `ERRCODE = KIND + 16*SUB` (R332). -/
def ErrorCause.code (e : ErrorCause) : BitVec 8 := e.sub ++ e.kind

/-- `PATH` as STATUS bits 5:4 (R28). -/
def Path.code : Path → BitVec 2
  | .noBranch => 0#2
  | .current => 1#2
  | .legacy => 2#2

/-- STATUS as the host reads it (R28): BUSY 0, DONE 1, ERR 2, CFG_VALID 3, PATH 5:4, PHASE 12:8, the rest zero. -/
def State.status (s : State) : Word :=
  0#19 ++ (s.phase ++ (0#2 ++ (s.stPath.code
    ++ (BitVec.ofBool s.cfg.valid ++ (BitVec.ofBool s.stErr ++ (BitVec.ofBool s.stDone ++ BitVec.ofBool s.stBusy))))))

end Sys2Proof.Machine
end

