-- ==== Sys2Proof/Machine/Ops.lean ====
section
/-!
DEFINITION. The named operations: reading and writing a buffer space, the transitions of the sequencer, accepting a
command (R72), TAKING AN EXCEPTION (`State.raise`, R344) with the two ends of a command beside it (R344, R345, R346), the
draw (R45), reset (R370), and the host's accesses (R27, R31, R63, R380).
-/

namespace Sys2Proof.Machine

/-- The byte at an offset of a space (R60). -/
def Memory.read : Memory → Nat → Byte
  | [], _ => Memory.unlisted
  | c :: m, a => if c.1 = a then c.2 else Memory.read m a

/-- One cell, or none where the byte is what an unlisted offset reads as. -/
def Memory.cell (a : Nat) (b : Byte) : Memory := if b = Memory.unlisted then [] else [(a, b)]

/-- The space with one byte written. -/
def Memory.write : Memory → Nat → Byte → Memory
  | [], a, b => Memory.cell a b
  | c :: m, a, b =>
    if a < c.1 then Memory.cell a b ++ (c :: m)
    else if c.1 = a then Memory.cell a b ++ m
    else c :: Memory.write m a b

/-- `MemRead(SPACE+off, n)` (R14): the bytes at offsets `off` to `off+n-1`. -/
def Memory.readBytes (m : Memory) (off n : Nat) : ByteString := (List.range n).map (fun i => m.read (off + i))

/-- A whole space that holds the bytes of `v` from offset `off` on and 00 everywhere else. -/
def Memory.ofBytes : Nat → ByteString → Memory
  | _, [] => []
  | off, b :: v => Memory.cell off b ++ Memory.ofBytes (off + 1) v

/-- `MemWrite(SPACE+0, n, v || zeros(n - |v|))` over a whole space of `n` bytes (R344, R345). -/
def Memory.fill (n : Nat) (v : ByteString) : Memory := Memory.ofBytes 0 (v.take n)

/-- `pc <- target` (R14). -/
def State.goTo (s : State) (target : BitVec 5) : State := { s with phase := target }

/-- Taking an exception: `raise Kind(sub)` moves the sequencer to FAIL and carries the code there (R14, R344). The QFVC
saves no program counter and no status, has no handler, and changes no mode (R344). -/
def State.raise (s : State) (e : ErrorCause) : State :=
  { s with phase := Phase.fail, wk.raisedCode := e.code }

/-- The accepting branch of a CMD write (R72). -/
def State.accept (s : State) (w : Word) : State :=
  { s with cmdReg := w, stBusy := true, stDone := false, stErr := false, stPath := .noBranch, phase := Phase.decode }

/-- The end of a command by an error with code `code` (R344): the effect of phase FAIL. -/
def State.endFailed (s : State) (code : BitVec 8) : State :=
  { s with
    errCode := code, outLen := 0#32, outbuf := Memory.fill 0 [],
    stErr := true, stDone := true, stBusy := false, phase := Phase.idle }

/-- `x[OUT_LEN] <- n` (R345): `n` itself where 32 bits hold it (R27), and a free value for 2^32 or more, where the spec gives
none: such results exist only under an IN_MAX of about 3*2^30 or more (log 27). -/
def outLenOf (n : Nat) : Word := if n < 4294967296 then BitVec.ofNat 32 n else Config.overlongOutLen n

/-- The successful end of a command with result `v` (R345): the effect of phase FINISH. A result longer than OUT_MAX, which no
run has, leaves its first OUT_MAX bytes (log 18); one of 2^32 bytes or more leaves a free OUT_LEN (log 27). -/
def State.endOk (p : Config.Params) (s : State) (v : ByteString) : State :=
  { s with
    outbuf := Memory.fill p.outMax v, outLen := outLenOf v.length, errCode := 0#8,
    stErr := false, stDone := true, stBusy := false, phase := Phase.idle }

/-- The answer of the random source that an event names, for the step that carries it out. -/
def HostEvent.answer : HostEvent → Option (Bytes 16)
  | .engine a => a
  | .command _ a => a
  | _ => none

/-- What the random source answers to a `draw(16)` of this step (R45): the answer the step's event names, and a free value
where it names none (log 3). -/
def State.nextDraw (s : State) : Bytes 16 :=
  match s.agenda.head?.bind HostEvent.answer with
  | some iv => iv
  | none => Bytes.ofList 16 (Config.draw s.draws)

/-- The state after one draw. -/
def State.afterDraw (s : State) : State := { s with draws := s.draws + 1 }

/-- The reset event (R370, R372): every element of the spec's state at its reset value. What is the model's own is kept:
the draws are not given back, the events to come still come, the host still holds what it read (log 20). -/
def State.afterReset (p : Config.Params) (s : State) : State :=
  { State.resetWith p.nlegMax with draws := s.draws, agenda := s.agenda, hostData := s.hostData }

/-- Slot `i` of the staging area; a slot that does not exist is empty. -/
def State.slot (s : State) (i : Nat) : StagedEntry := s.staged.getD i StagedEntry.reset

/-- The state with slot `i` of the staging area changed; nothing happens where the slot does not exist. -/
def State.setSlot (s : State) (i : Nat) (f : StagedEntry → StagedEntry) : State :=
  { s with staged := s.staged.modify i f }

/-- `HostReadReg(n)` (R27, R63): the value of a register by its number, reserved ones and CMD reading 0. -/
def readRegister (p : Config.Params) (s : State) (n : Nat) : Word :=
  if n = 1 then s.status
  else if n = 2 then s.errCode.setWidth 32
  else if n = 3 then s.inLen
  else if n = 4 then s.outLen
  else if n = 5 then s.sCurTagLen.setWidth 32
  else if n = 6 then s.sMkeyLen.setWidth 32
  else if n = 7 then s.sNleg.setWidth 32
  else if 16 ≤ n ∧ n < 16 + 2 * p.nlegMax then
    if n % 2 = 0 then (s.slot ((n - 16) / 2)).tagLen.setWidth 32 else (s.slot ((n - 16) / 2)).keyLen.setWidth 32
  else 0#32

/-- `HostWriteReg(n, v)` while no command runs (R27, R63, R72): a narrower register ignores the bits above its width,
a read-only or reserved one ignores the write, CMD accepts a command. -/
def writeRegister (p : Config.Params) (s : State) (n : Nat) (v : Word) : State :=
  if n = 0 then s.accept v
  else if n = 3 then { s with inLen := v }
  else if n = 5 then { s with sCurTagLen := v.setWidth 8 }
  else if n = 6 then { s with sMkeyLen := v.setWidth 16 }
  else if n = 7 then { s with sNleg := v.setWidth 8 }
  else if 16 ≤ n ∧ n < 16 + 2 * p.nlegMax then
    if n % 2 = 0 then s.setSlot ((n - 16) / 2) (fun e => { e with tagLen := v.setWidth 8 })
    else s.setSlot ((n - 16) / 2) (fun e => { e with keyLen := v.setWidth 16 })
  else s

/-- `HostReadBuf(space, off)` (R31, R63): INBUF, OUTBUF and VTAG read their byte; the write-only staging spaces, an
offset outside its space and a space that does not exist read 00. -/
def readBuffer (p : Config.Params) (s : State) (space off : Nat) : Byte :=
  if space = 1 ∧ off < p.inMax then s.inbuf.read off
  else if space = 2 ∧ off < p.outMax then s.outbuf.read off
  else if space = 3 ∧ off < 6 then s.vtag.read off
  else 0#8

/-- `HostWriteBuf(space, off, b)` while no command runs (R31, R63): OUTBUF, an offset outside its space and a space
that does not exist ignore the write. -/
def writeBuffer (p : Config.Params) (s : State) (space off : Nat) (b : Byte) : State :=
  if space = 1 ∧ off < p.inMax then { s with inbuf := s.inbuf.write off b }
  else if space = 3 ∧ off < 6 then { s with vtag := s.vtag.write off b }
  else if space = 4 ∧ off < p.stagMax then { s with sCurTag := s.sCurTag.write off b }
  else if space = 5 ∧ off < p.mkeyMax then { s with sMkey := s.sMkey.write off b }
  else if 16 ≤ space ∧ space < 16 + 2 * p.nlegMax then
    if space % 2 = 0 then
      if off < p.stagMax then s.setSlot ((space - 16) / 2) (fun e => { e with tag := e.tag.write off b }) else s
    else
      if off < p.lkeyMax then s.setSlot ((space - 16) / 2) (fun e => { e with key := e.key.write off b }) else s
  else s

/-- A host register read at any time: while a command runs everything but STATUS reads 0 (R380). -/
def hostReadReg (p : Config.Params) (s : State) (n : Nat) : Word :=
  if s.stBusy = true ∧ n ≠ 1 then 0#32 else readRegister p s n

/-- A host buffer read at any time: while a command runs it gives 0 (R380). -/
def hostReadBuf (p : Config.Params) (s : State) (space off : Nat) : Byte :=
  if s.stBusy then 0#8 else readBuffer p s space off

/-- A host register write at any time: ignored while a command runs (R72, R380). -/
def hostWriteReg (p : Config.Params) (s : State) (n : Nat) (v : Word) : State :=
  if s.stBusy then s else writeRegister p s n v

/-- A host buffer write at any time: ignored while a command runs (R380). -/
def hostWriteBuf (p : Config.Params) (s : State) (space off : Nat) (b : Byte) : State :=
  if s.stBusy then s else writeBuffer p s space off b

end Sys2Proof.Machine
end

