-- ==== Sys2Proof/Machine/Operands.lean ====
section
/-!
DEFINITION. Where the engine reads each operand of a command (30_encoding.md R94, 20_memory.md R78), and the lookup in
the legacy table (R25).
-/

namespace Sys2Proof.Machine

/-- The text operand of ENCRYPT and DECRYPT: `INBUF[0..IN_LEN)` (R94). Its bytes at and beyond IN_MAX, which E_CHECK and D_CHECK
let no command read (R231, R251), are 00: the model's choice (log 26). -/
def State.input (s : State) : ByteString := s.inbuf.readBytes 0 s.inLen.toNat

/-- The payload of the current path: `INBUF[6..IN_LEN)` (R78, R213). With IN_LEN below 6, which TAGSPLIT lets no command
bring here (R217), the slice is empty: the model's choice (log 25). With IN_LEN above IN_MAX, which D_CHECK lets no command
bring here (R251, R78), its bytes beyond INBUF are 00: the model's choice (log 26). -/
def State.payload (s : State) : ByteString := s.inbuf.readBytes 6 (s.inLen.toNat - 6)

/-- The leading 6 bytes of the ciphertext string (R217). -/
def State.inputTag (s : State) : Bytes 6 := Bytes.ofList 6 (s.inbuf.readBytes 0 6)

/-- The version override: `VTAG[0..6)` (R94). -/
def State.override (s : State) : Bytes 6 := Bytes.ofList 6 (s.vtag.readBytes 0 6)

/-- The tag a command uses: the override when `V = 1`, else the Config's current tag (R216, R253). -/
def State.tagFor (s : State) (v : Bool) : Bytes 6 := if v then s.override else s.cfg.curTag

/-- `LegLookup(t)` (R25): the key of the highest index whose tag is `t`. -/
def legLookup (table : List LegacyEntry) (t : Bytes 6) : Option ByteString :=
  (table.reverse.find? (fun e => e.tag = t)).map (·.key)

/-- The one lookup any command performs: `LegLookup("ZeroVe")` (R25, R256). -/
def State.zeroVeKey (s : State) : Option ByteString := legLookup s.cfg.legacy Config.reservedTag

/-- The slots of the staging area that CONFIG reads: those with an index below S_NLEG (R94). -/
def State.stagedUsed (s : State) : List StagedEntry := (List.range s.sNleg.toNat).map s.slot

/-- The legacy entry a staged slot commits (R132). -/
def StagedEntry.commit (e : StagedEntry) : LegacyEntry :=
  { tag := Bytes.ofList 6 (e.tag.readBytes 0 6), key := e.key.readBytes 0 e.keyLen.toNat }

/-- The Config the staging area stands for (R132). -/
def State.stagedConfig (s : State) : CommittedConfig :=
  { valid := true
    curTag := Bytes.ofList 6 (s.sCurTag.readBytes 0 6)
    mkey := s.sMkey.readBytes 0 s.sMkeyLen.toNat
    legacy := s.stagedUsed.map StagedEntry.commit }

end Sys2Proof.Machine
end

