-- ==== Sys2Proof/Machine/ByteOps.lean ====
section
/-!
DEFINITION. Byte-string arithmetic shared by the functions of files 41 to 48: exclusive-or (R11), cutting into blocks,
big-endian integers (R65), and 32-bit words of bytes (R310).
-/

namespace Sys2Proof.Machine

/-- `a xor b` of R11, for two strings of equal length. -/
def xorBytes (a b : ByteString) : ByteString := List.zipWith (· ^^^ ·) a b

/-- `a xor b` of R11 on registers of one size. -/
def xorReg {n : Nat} (a b : Bytes n) : Bytes n :=
  ⟨xorBytes a.val b.val, by simp [xorBytes, a.property, b.property]⟩

/-- The whole pieces of `n` bytes of a string, in order; a shorter rest is not among them. -/
def pieces (n : Nat) (s : ByteString) : List ByteString :=
  (List.range (s.length / n)).map (fun i => (s.drop (n * i)).take n)

/-- The 16-byte blocks `P_1 .. P_m` of a string of `16*m` bytes (R193, R194). -/
def blocks (s : ByteString) : List (Bytes 16) := (pieces 16 s).map (Bytes.ofList 16)

/-- The number a byte string spells, most significant byte first: `eLen*256 + byte` over its bytes (R65, R284). -/
def beNat (s : ByteString) : Nat := s.foldl (fun acc b => acc * 256 + b.toNat) 0

/-- `v` as `n` bytes, most significant first (R65, R310, R316). -/
def beBytes (n v : Nat) : ByteString := ((List.range n).map (fun i => BitVec.ofNat 8 (v / 256 ^ i))).reverse

end Sys2Proof.Machine
end

