-- ==== Sys2Proof/Machine/Sha256.lean ====
section
/-!
DEFINITION. SHA-256, HMAC and PBKDF2 as 48_primitives_reference.md writes them (R310 to R318). PRESUMED through the
spec: file 48 is marked "from general knowledge, not in source" (log 21).
-/

namespace Sys2Proof.Machine

/-- The initial hash `H0..H7` (R311). -/
def shaInit : List (BitVec 32) :=
  [0x6a09e667#32, 0xbb67ae85#32, 0x3c6ef372#32, 0xa54ff53a#32, 0x510e527f#32, 0x9b05688c#32, 0x1f83d9ab#32, 0x5be0cd19#32]

/-- The round constants `K[0..63]`, row by row (R311). -/
def shaK : List (BitVec 32) :=
  [0x428a2f98#32, 0x71374491#32, 0xb5c0fbcf#32, 0xe9b5dba5#32, 0x3956c25b#32, 0x59f111f1#32, 0x923f82a4#32, 0xab1c5ed5#32]
  ++ [0xd807aa98#32, 0x12835b01#32, 0x243185be#32, 0x550c7dc3#32, 0x72be5d74#32, 0x80deb1fe#32, 0x9bdc06a7#32, 0xc19bf174#32]
  ++ [0xe49b69c1#32, 0xefbe4786#32, 0x0fc19dc6#32, 0x240ca1cc#32, 0x2de92c6f#32, 0x4a7484aa#32, 0x5cb0a9dc#32, 0x76f988da#32]
  ++ [0x983e5152#32, 0xa831c66d#32, 0xb00327c8#32, 0xbf597fc7#32, 0xc6e00bf3#32, 0xd5a79147#32, 0x06ca6351#32, 0x14292967#32]
  ++ [0x27b70a85#32, 0x2e1b2138#32, 0x4d2c6dfc#32, 0x53380d13#32, 0x650a7354#32, 0x766a0abb#32, 0x81c2c92e#32, 0x92722c85#32]
  ++ [0xa2bfe8a1#32, 0xa81a664b#32, 0xc24b8b70#32, 0xc76c51a3#32, 0xd192e819#32, 0xd6990624#32, 0xf40e3585#32, 0x106aa070#32]
  ++ [0x19a4c116#32, 0x1e376c08#32, 0x2748774c#32, 0x34b0bcb5#32, 0x391c0cb3#32, 0x4ed8aa4a#32, 0x5b9cca4f#32, 0x682e6ff3#32]
  ++ [0x748f82ee#32, 0x78a5636f#32, 0x84c87814#32, 0x8cc70208#32, 0x90befffa#32, 0xa4506ceb#32, 0xbef9a3f7#32, 0xc67178f2#32]

/-- A message padded to whole 64-byte blocks (R310). Of a message of 2^61 bytes or more, whose bit count R310's 64 bits do not
hold, the low 64 bits of the count stand there: the model's choice (log 28). -/
def shaPad (m : ByteString) : ByteString :=
  m ++ [0x80#8] ++ zeros ((119 - m.length % 64) % 64) ++ beBytes 8 (8 * m.length)

/-- The sixteen big-endian words of a 64-byte block (R310). -/
def shaWords (block : ByteString) : List (BitVec 32) := (pieces 4 block).map (fun w => BitVec.ofNat 32 (beNat w))

/-- `s0` of the schedule (R312). -/
def shaSmall0 (x : BitVec 32) : BitVec 32 := x.rotateRight 7 ^^^ x.rotateRight 18 ^^^ (x >>> 3)
/-- `s1` of the schedule (R312). -/
def shaSmall1 (x : BitVec 32) : BitVec 32 := x.rotateRight 17 ^^^ x.rotateRight 19 ^^^ (x >>> 10)
/-- `S1` of a round (R312). -/
def shaBig1 (e : BitVec 32) : BitVec 32 := e.rotateRight 6 ^^^ e.rotateRight 11 ^^^ e.rotateRight 25
/-- `S0` of a round (R312). -/
def shaBig0 (a : BitVec 32) : BitVec 32 := a.rotateRight 2 ^^^ a.rotateRight 13 ^^^ a.rotateRight 22
/-- `ch` of a round (R312). -/
def shaCh (e f g : BitVec 32) : BitVec 32 := (e &&& f) ^^^ (~~~e &&& g)
/-- `maj` of a round (R312). -/
def shaMaj (a b c : BitVec 32) : BitVec 32 := (a &&& b) ^^^ (a &&& c) ^^^ (b &&& c)

/-- `n` further schedule words; `rev` holds the words so far, last one first (R312). -/
def shaExtend : Nat → List (BitVec 32) → List (BitVec 32)
  | 0, rev => rev
  | n + 1, rev =>
    shaExtend n ((rev.getD 15 0#32 + shaSmall0 (rev.getD 14 0#32) + rev.getD 6 0#32 + shaSmall1 (rev.getD 1 0#32)) :: rev)

/-- The schedule `W[0..63]` of a block (R312). -/
def shaSchedule (block : ByteString) : List (BitVec 32) := (shaExtend 48 (shaWords block).reverse).reverse

/-- The eight working variables `a .. h` of the compression (R312). -/
structure ShaVars where
  a : BitVec 32
  b : BitVec 32
  c : BitVec 32
  d : BitVec 32
  e : BitVec 32
  f : BitVec 32
  g : BitVec 32
  h : BitVec 32
deriving DecidableEq, Repr

/-- One round of the compression with its constant and its schedule word (R312). -/
def shaRound (v : ShaVars) (kw : BitVec 32 × BitVec 32) : ShaVars :=
  let t1 := v.h + shaBig1 v.e + shaCh v.e v.f v.g + kw.1 + kw.2
  let t2 := shaBig0 v.a + shaMaj v.a v.b v.c
  { a := t1 + t2, b := v.a, c := v.b, d := v.c, e := v.d + t1, f := v.e, g := v.f, h := v.g }

/-- One block's compression of the hash (R312). -/
def shaBlock (hash : ShaVars) (block : ByteString) : ShaVars :=
  let v := (List.zip shaK (shaSchedule block)).foldl shaRound hash
  { a := hash.a + v.a, b := hash.b + v.b, c := hash.c + v.c, d := hash.d + v.d,
    e := hash.e + v.e, f := hash.f + v.f, g := hash.g + v.g, h := hash.h + v.h }

/-- The initial hash as working variables (R311). -/
def shaStart : ShaVars :=
  { a := shaInit.getD 0 0#32, b := shaInit.getD 1 0#32, c := shaInit.getD 2 0#32, d := shaInit.getD 3 0#32,
    e := shaInit.getD 4 0#32, f := shaInit.getD 5 0#32, g := shaInit.getD 6 0#32, h := shaInit.getD 7 0#32 }

/-- `SHA256(M)` (R310, R312): 32 bytes, each hash word big-endian. -/
def sha256 (m : ByteString) : Bytes 32 :=
  let v := (pieces 64 (shaPad m)).foldl shaBlock shaStart
  Bytes.ofList 32 ([v.a, v.b, v.c, v.d, v.e, v.f, v.g, v.h].flatMap (fun w => beBytes 4 w.toNat))

/-- The HMAC key fitted to the 64-byte block (R318). -/
def hmacKey (k : ByteString) : ByteString :=
  let k' := if 64 < k.length then (sha256 k).val else k
  k' ++ zeros (64 - k'.length)

/-- `HMAC_SHA256(k, m)` (R318). -/
def hmacSha256 (k m : ByteString) : Bytes 32 :=
  sha256 (xorBytes (hmacKey k) (List.replicate 64 0x5c#8) ++ (sha256 (xorBytes (hmacKey k) (List.replicate 64 0x36#8) ++ m)).val)

/-- `U_1 xor ... xor U_c` of one PBKDF2 block, from `U_j`, the running exclusive-or and the iterations left (R316). -/
def pbkdf2Block (prf : ByteString → ByteString → Bytes 32) (p : ByteString) : Nat → Bytes 32 → Bytes 32 → Bytes 32
  | 0, _, t => t
  | n + 1, u, t => pbkdf2Block prf p n (prf p u.val) (xorReg t (prf p u.val))

/-- `T_i` of R316 for `c` iterations, with `INT(i)` the index as 4 big-endian bytes. -/
def pbkdf2T (prf : ByteString → ByteString → Bytes 32) (p salt : ByteString) (c i : Nat) : Bytes 32 :=
  pbkdf2Block prf p (c - 1) (prf p (salt ++ beBytes 4 i)) (prf p (salt ++ beBytes 4 i))

/-- `PBKDF2(PRF, P, S, c, dkLen)` for a PRF of 32-byte output (R316). -/
def pbkdf2 (prf : ByteString → ByteString → Bytes 32) (p salt : ByteString) (c dkLen : Nat) : ByteString :=
  (((List.range ((dkLen + 31) / 32)).map (fun i => (pbkdf2T prf p salt c (i + 1)).val)).flatten).take dkLen

end Sys2Proof.Machine
end

