-- ==== Sys2Proof/Machine/Params.lean ====
section
/-!
DEFINITION. The instantiation of the parameters of R10 that the machine runs: the default column of that table, with the
default primitives of file 48 (log 6).
-/

namespace Sys2Proof.Machine

/-- The default block cipher: AES by key length (R191, R300). -/
def aes : Config.BlockCipher := { enc := aesEnc, dec := aesDec }

/-- The default key-derivation function: PBKDF2 with HMAC-SHA-256, 10000 iterations, 32 bytes (R151, R317). -/
def pbkdf2Default (p salt : ByteString) : Bytes 32 := Bytes.ofList 32 (pbkdf2 hmacSha256 p salt Config.kdfIterations 32)

/-- The default of every parameter (R10). -/
def params : Config.Params :=
  { inMax := Config.inMaxDefault
    outMax := Config.outBound Config.inMaxDefault
    mkeyMax := Config.mkeyMaxDefault
    lkeyMax := Config.lkeyMaxDefault
    nlegMax := Config.nlegMaxDefault
    stagMax := 255
    elenBits := 120
    neng := 1
    bc := aes
    kdfn := pbkdf2Default
    prf := hmacSha256
    b64IgnoreCrlf := false
    b64StrictTrailing := false
    zpadAlignedAddsBlock := false }

end Sys2Proof.Machine
end

