-- ==== Sys2Proof/Machine/Padding.lean ====
section
/-!
DEFINITION. The padding codecs (42_padding.md): SPAD, SUNPAD, ZPAD, ZTRUNC, and the phases PAD and UNPAD.
-/

namespace Sys2Proof.Machine

/-- What an instruction answers. -/
abbrev Answer := Host.Outcome State Fault Refusal

/-- The number of bytes size-padding adds to a string of `n` bytes: 1 to 16 (R170, R171). -/
def spadCount (n : Nat) : Nat := 16 - n % 16

/-- `SPAD(P)` (R170). -/
def spad (s : ByteString) : ByteString :=
  s ++ List.replicate (spadCount s.length) (BitVec.ofNat 8 (spadCount s.length))

/-- `SUNPAD(B)` (R172, R174): only the last byte is looked at (R173). -/
def sunpad (b : ByteString) : Except ErrorCause ByteString :=
  match b.getLast? with
  | none => .error .unpadEmpty
  | some n => if n = 0#8 ∨ b.length < n.toNat then .error .paddingInvalid else .ok (b.take (b.length - n.toNat))

/-- `ZPAD(P)` (R176). No command executes it; it serves to build legacy fixtures. -/
def zpad (p : Config.Params) (s : ByteString) : ByteString :=
  if s.length % 16 ≠ 0 then s ++ zeros (16 - s.length % 16)
  else if p.zpadAlignedAddsBlock then s ++ zeros 16
  else s

/-- `ZTRUNC(B, len)` (R177): the bytes cut off are not looked at. -/
def ztrunc (b : ByteString) (len : Nat) : Except ErrorCause ByteString :=
  if b.length < len then .error .elenRange else .ok (b.take len)

/-- Phase `PAD` (R170). -/
def execPad (s : State) : Answer := .next { s with wk.work := spad s.input, phase := Phase.cbce }

/-- Phase `UNPAD` (R172). -/
def execUnpad (s : State) : Answer :=
  .next (match sunpad s.wk.work with
    | .error e => s.raise e
    | .ok v => { s with wk.work := v, phase := Phase.finish })

end Sys2Proof.Machine
end

