-- ==== Sys2Proof/Machine/Configure.lean ====
section
/-!
DEFINITION. The CONFIG command (40_config.md): the phases C_CHECK and C_COMMIT, and the command as one transition.
-/

namespace Sys2Proof.Machine

/-- The checks of C_CHECK in their order; none when the staged configuration is valid (R131). -/
def cCheckError (p : Config.Params) (s : State) : Option ErrorCause :=
  if p.mkeyMax < s.sMkeyLen.toNat ∨ p.nlegMax < s.sNleg.toNat then some .badLen
  else if s.stagedUsed.any (fun e => p.lkeyMax < e.keyLen.toNat) then some .badLen
  else if s.sCurTagLen ≠ 6#8 then some .tagLengthCur
  else if s.stagedUsed.any (fun e => e.tagLen ≠ 6#8) then some .tagLengthLeg
  else none

/-- CONFIG of an accepted state (R130): C_CHECK, C_COMMIT, FINISH with an empty result. -/
def configCommand (p : Config.Params) (s : State) : State :=
  match cCheckError p s with
  | some e => s.endFailed e.code
  | none => State.endOk p { s with cfg := s.stagedConfig } []

/-- Phase `C_CHECK` (R131) under the parameters `p`. -/
def cCheckWith (p : Config.Params) (s : State) : Answer :=
  .next (match cCheckError p s with
    | some e => s.raise e
    | none => s.goTo Phase.cCommit)

/-- `CONFIG` (R130), the whole command, under the parameters `p`; ignored while another runs (R72). -/
def configWith (p : Config.Params) (s : State) : Answer :=
  .next (if s.stBusy then s else configCommand p (s.accept (commandWord 0x01#8 false)))

/-- Phase `C_CHECK` (R131). -/
def execCCheck (s : State) : Answer := cCheckWith params s

/-- Phase `C_COMMIT` (R132). -/
def execCCommit (s : State) : Answer := .next { s with cfg := s.stagedConfig, phase := Phase.finish }

/-- `CONFIG` (R130), the whole command. -/
def execConfig (s : State) : Answer := configWith params s

end Sys2Proof.Machine
end

