-- ==== Sys2Proof/Machine/Base64.lean ====
section
/-!
DEFINITION. The base64 codec (44_framing.md R210 to R215): B64E, B64D, and the phases B64E and B64D.
-/

namespace Sys2Proof.Machine

/-- The pad character `=` (R211). -/
def b64Pad : Byte := 0x3d#8

/-- The character of a value 0 to 63 (R211). -/
def b64Char (v : Nat) : Byte :=
  if v < 26 then BitVec.ofNat 8 (0x41 + v)
  else if v < 52 then BitVec.ofNat 8 (0x61 + (v - 26))
  else if v < 62 then BitVec.ofNat 8 (0x30 + (v - 52))
  else if v = 62 then 0x2b#8
  else 0x2f#8

/-- `val(c)`: the value of a character, or none (R211, R213). -/
def b64Val (c : Byte) : Option Nat :=
  if 0x41 ≤ c.toNat ∧ c.toNat ≤ 0x5a then some (c.toNat - 0x41)
  else if 0x61 ≤ c.toNat ∧ c.toNat ≤ 0x7a then some (c.toNat - 0x61 + 26)
  else if 0x30 ≤ c.toNat ∧ c.toNat ≤ 0x39 then some (c.toNat - 0x30 + 52)
  else if c = 0x2b#8 then some 62
  else if c = 0x2f#8 then some 63
  else none

/-- The first `n` of the four characters of a 24-bit group, most significant six bits first (R212). -/
def b64Chars (n g : Nat) : ByteString :=
  [b64Char (g / 262144 % 64), b64Char (g / 4096 % 64), b64Char (g / 64 % 64), b64Char (g % 64)].take n

/-- `B64E(X)` (R212). -/
def b64Encode : ByteString → ByteString
  | [] => []
  | [b0] => b64Chars 2 (b0.toNat * 65536) ++ [b64Pad, b64Pad]
  | [b0, b1] => b64Chars 3 (b0.toNat * 65536 + b1.toNat * 256) ++ [b64Pad]
  | b0 :: b1 :: b2 :: rest => b64Chars 4 (b0.toNat * 65536 + b1.toNat * 256 + b2.toNat) ++ b64Encode rest

/-- The value of a group's first `n` characters, `24 - 6*n` zero bits below; none where a character has no value (R213). -/
def b64Group (cs : ByteString) (n : Nat) : Option Nat :=
  ((cs.take n).mapM b64Val).map (fun vs => (vs.foldl (fun g v => g * 64 + v) 0) * 64 ^ (4 - n))

/-- The bytes of one group of four characters, `pads` of them pad characters (R213). -/
def b64DecodeGroup (strict : Bool) (cs : ByteString) (pads : Nat) : Option ByteString :=
  match b64Group cs (4 - pads) with
  | none => none
  | some g =>
    if strict = true ∧ g % 256 ^ pads ≠ 0 then none
    else some ((beBytes 3 g).take (3 - pads))

/-- The number of pad characters the last group ends with: 2, 1 or 0 (R213). -/
def b64Pads (c2 c3 : Byte) : Nat := if c2 = b64Pad ∧ c3 = b64Pad then 2 else if c3 = b64Pad then 1 else 0

/-- The groups of a string whose length is a multiple of 4; only the last may hold pad characters (R213). -/
def b64Groups (strict : Bool) : ByteString → Option ByteString
  | c0 :: c1 :: c2 :: c3 :: rest =>
    match rest with
    | [] => b64DecodeGroup strict [c0, c1, c2, c3] (b64Pads c2 c3)
    | _ :: _ =>
      match b64DecodeGroup strict [c0, c1, c2, c3] 0, b64Groups strict rest with
      | some x, some y => some (x ++ y)
      | _, _ => none
  | [] => some []
  | _ => none

/-- The text the decoder looks at: without CR and LF under `B64_IGNORE_CRLF` (R213). -/
def b64Text (p : Config.Params) (s : ByteString) : ByteString :=
  if p.b64IgnoreCrlf then s.filter (fun c => c ≠ 0x0d#8 ∧ c ≠ 0x0a#8) else s

/-- `B64D(S)` (R213). -/
def b64Decode (p : Config.Params) (s : ByteString) : Except ErrorCause ByteString :=
  if (b64Text p s).length % 4 ≠ 0 then .error .b64Invalid
  else
    match b64Groups p.b64StrictTrailing (b64Text p s) with
    | none => .error .b64Invalid
    | some v => .ok v

/-- Phase `B64E` (R212). -/
def execB64e (s : State) : Answer :=
  .next { s with wk.work := b64Encode (s.wk.ivr.val ++ s.wk.work), phase := Phase.tagput }

/-- Phase `B64D` (R213, R258) under the parameters `p`. -/
def b64dWith (p : Config.Params) (s : State) : Answer :=
  .next (match b64Decode p s.payload with
    | .error e => s.raise e
    | .ok v => { s with wk.work := v, phase := Phase.ivsplit })

/-- Phase `B64D` (R213, R258). -/
def execB64d (s : State) : Answer := b64dWith params s

end Sys2Proof.Machine
end

