-- ==== Sys2Proof/Machine/Cbc.lean ====
section
/-!
DEFINITION. The CBC wrapper around the block cipher (43_cbc.md): CBC_ENC, CBC_DEC, and the phases CBCE and CBCD.
-/

namespace Sys2Proof.Machine

/-- The blocks `C_1 .. C_m` from the blocks `P_1 .. P_m` and `C_0` (R193). -/
def cbcEncBlocks (bc : Config.BlockCipher) (k : ByteString) : Bytes 16 → List (Bytes 16) → List (Bytes 16)
  | _, [] => []
  | prev, x :: xs => bc.enc k (xorReg x prev) :: cbcEncBlocks bc k (bc.enc k (xorReg x prev)) xs

/-- The blocks `P_1 .. P_m` from the blocks `C_1 .. C_m` and `C_0` (R194). -/
def cbcDecBlocks (bc : Config.BlockCipher) (k : ByteString) : Bytes 16 → List (Bytes 16) → List (Bytes 16)
  | _, [] => []
  | prev, c :: cs => xorReg (bc.dec k c) prev :: cbcDecBlocks bc k c cs

/-- The byte string of a list of blocks. -/
def joinBlocks (xs : List (Bytes 16)) : ByteString := xs.flatMap (·.val)

/-- `CBC_ENC(K, IV, P)` (R193). For a string that is no whole number of blocks R193 defines no value: a free one, of the same
length, since CBCE leaves WORK_LEN as it is (log 23). -/
def cbcEnc (bc : Config.BlockCipher) (k : ByteString) (iv : Bytes 16) (x : ByteString) : ByteString :=
  if x.length % 16 = 0 then joinBlocks (cbcEncBlocks bc k iv (blocks x))
  else (Bytes.ofList x.length (Config.unalignedCbc k iv.val x)).val

/-- `CBC_DEC(K, IV, C)` (R194, R195). -/
def cbcDec (bc : Config.BlockCipher) (k : ByteString) (iv : Bytes 16) (c : ByteString) : Except ErrorCause ByteString :=
  if c.length % 16 ≠ 0 then .error .cbcNotAligned else .ok (joinBlocks (cbcDecBlocks bc k iv (blocks c)))

/-- Phase `CBCE` (R193) under the parameters `p`. -/
def cbceWith (p : Config.Params) (s : State) : Answer :=
  .next { s with wk.work := cbcEnc p.bc s.wk.dkey.val s.wk.ivr s.wk.work, phase := Phase.b64e }

/-- Phase `CBCD` (R194, R195) under the parameters `p`. -/
def cbcdWith (p : Config.Params) (s : State) : Answer :=
  .next (match cbcDec p.bc s.wk.dkey.val s.wk.ivr s.wk.work with
    | .error e => s.raise e
    | .ok v => { s with wk.work := v, phase := Phase.unpad })

/-- Phase `CBCE` (R193). -/
def execCbce (s : State) : Answer := cbceWith params s

/-- Phase `CBCD` (R194, R195). -/
def execCbcd (s : State) : Answer := cbcdWith params s

end Sys2Proof.Machine
end

