-- ==== Sys2Proof/Machine/Legacy.lean ====
section
/-!
DEFINITION. The legacy zero-version decrypt path (47_legacy.md): KEYFIT, LEGACY_DECRYPT, and the phases L_KEYFIT, L_B64D,
L_SPLIT, L_CBCD and L_TRUNC.
-/

namespace Sys2Proof.Machine

/-- `KEYFIT(lk)` (R281, R282). -/
def keyfit (lk : ByteString) : Except ErrorCause ByteString :=
  if lk.length ≤ 16 then .ok (lk ++ zeros (16 - lk.length))
  else if lk.length ≤ 24 then .ok (lk ++ zeros (24 - lk.length))
  else if lk.length ≤ 32 then .ok (lk ++ zeros (32 - lk.length))
  else .error .legacyKeyTooLong

/-- `plen` of R284: the length of the block-aligned prefix. -/
def prefixLength (total : Nat) : Nat := total / 16 * 16

/-- `eLen` of R284 and R285, narrowed to the accumulator's width, which never cuts anything (log 19). -/
def trailerLength (p : Config.Params) (buf : ByteString) : Nat :=
  beNat (buf.drop (prefixLength buf.length)) % 2 ^ p.elenBits

/-- `LEGACY_DECRYPT(lk, S)` (R280), its five steps in order. -/
def legacyDecrypt (p : Config.Params) (lk s : ByteString) : Except ErrorCause ByteString :=
  match keyfit lk with
  | .error e => .error e
  | .ok k =>
    match b64Decode p s with
    | .error e => .error e
    | .ok buf =>
      match cbcDec p.bc k (Bytes.zero 16) (buf.take (prefixLength buf.length)) with
      | .error e => .error e
      | .ok dec => ztrunc dec (trailerLength p buf)

/-- The raw legacy key of phase L_KEYFIT: `LegLookup("ZeroVe")`, and a free value where the table has no such entry, which
SELECT never lets happen (R254; log 10). -/
def State.legacyKey (s : State) : ByteString :=
  match s.zeroVeKey with
  | some k => k
  | none => Config.absentLegacyKey (s.cfg.legacy.map (·.tag.val))

/-- Phase `L_KEYFIT` (R281, R282). -/
def execLKeyfit (s : State) : Answer :=
  .next (match keyfit s.legacyKey with
    | .error e => s.raise e
    | .ok k => { s with wk.lkfit := k, phase := Phase.lB64d })

/-- Phase `L_B64D` (R283) under the parameters `p`: the entire string. -/
def lB64dWith (p : Config.Params) (s : State) : Answer :=
  .next (match b64Decode p s.input with
    | .error e => s.raise e
    | .ok v => { s with wk.work := v, phase := Phase.lSplit })

/-- Phase `L_SPLIT` (R284) under the parameters `p`: afterwards WORK holds the prefix only. -/
def lSplitWith (p : Config.Params) (s : State) : Answer :=
  .next
    { s with
      wk.plen := prefixLength s.wk.work.length
      wk.elen := trailerLength p s.wk.work
      wk.work := s.wk.work.take (prefixLength s.wk.work.length)
      phase := Phase.lCbcd }

/-- Phase `L_CBCD` (R286) under the parameters `p`: the zero IV, and the prefix only. -/
def lCbcdWith (p : Config.Params) (s : State) : Answer :=
  .next (match cbcDec p.bc s.wk.lkfit (Bytes.zero 16) (s.wk.work.take s.wk.plen) with
    | .error e => State.raise { s with wk.ivr := Bytes.zero 16 } e
    | .ok v => { s with wk.ivr := Bytes.zero 16, wk.work := v, phase := Phase.lTrunc })

/-- Phase `L_B64D` (R283). -/
def execLB64d (s : State) : Answer := lB64dWith params s

/-- Phase `L_SPLIT` (R284). -/
def execLSplit (s : State) : Answer := lSplitWith params s

/-- Phase `L_CBCD` (R286). -/
def execLCbcd (s : State) : Answer := lCbcdWith params s

/-- Phase `L_TRUNC` (R287, R288). -/
def execLTrunc (s : State) : Answer :=
  .next (match ztrunc (s.wk.work.take s.wk.plen) s.wk.elen with
    | .error e => s.raise e
    | .ok v => { s with wk.work := v, phase := Phase.finish })

end Sys2Proof.Machine
end

