-- ==== Sys2Proof/Machine/Decrypt.lean ====
section
/-!
DEFINITION. DECRYPT and DECRYPT.V with the legacy-format selector and fallback dispatcher (46_decrypt.md): the phases
D_CHECK, TAGSPLIT, SELECT, D_KEYCHK and IVSPLIT, and the commands as one transition.
-/

namespace Sys2Proof.Machine

/-- The checks of D_CHECK in their order; none when the command may go on (R251). -/
def dCheckError (p : Config.Params) (s : State) : Option ErrorCause :=
  if p.inMax < s.inLen.toNat then some .badLen
  else if s.cfg.valid = false then some .notConfigured
  else none

/-- The current path of DECRYPT on a payload (R250 step 3). -/
def currentDecrypt (p : Config.Params) (mkey payload : ByteString) : Except ErrorCause ByteString :=
  if mkey.length < Config.mkeyMin then .error .keyTooShort
  else
    match b64Decode p payload with
    | .error e => .error e
    | .ok buf =>
      if buf.length < 16 then .error .ivShort
      else
        match cbcDec p.bc (p.kdfn mkey (buf.take 16)).val (Bytes.ofList 16 buf) (buf.drop 16) with
        | .error e => .error e
        | .ok padded => sunpad padded

/-- DECRYPT as a function of the Config, the string and the expected tag, after step 0 (R250): the branch taken, and the
plaintext or the error. -/
def decryptText (p : Config.Params) (cfg : CommittedConfig) (s : ByteString) (expected : Bytes 6) :
    Path × Except ErrorCause ByteString :=
  if s.length < 6 then (.noBranch, .error .tagShort)
  else if s.take 6 = expected.val then (.current, currentDecrypt p cfg.mkey (s.drop 6))
  else
    match legLookup cfg.legacy Config.reservedTag with
    | some lk => (.legacy, legacyDecrypt p lk s)
    | none => (.noBranch, .error .unsupportedVersion)

/-- The end of a command with a result or an error (R344, R345). -/
def State.endWith (p : Config.Params) (s : State) (r : Except ErrorCause ByteString) : State :=
  match r with
  | .error e => s.endFailed e.code
  | .ok v => s.endOk p v

/-- DECRYPT (`v = false`) and DECRYPT.V (`v = true`) of an accepted state (R250). -/
def decryptCommand (p : Config.Params) (v : Bool) (s : State) : State :=
  match dCheckError p s with
  | some e => s.endFailed e.code
  | none =>
    State.endWith p { s with stPath := (decryptText p s.cfg s.input (s.tagFor v)).1 }
      (decryptText p s.cfg s.input (s.tagFor v)).2

/-- Phase `D_CHECK` (R251) under the parameters `p`. -/
def dCheckWith (p : Config.Params) (s : State) : Answer :=
  .next (match dCheckError p s with
    | some e => s.raise e
    | none => s.goTo Phase.tagsplit)

/-- `DECRYPT` and `DECRYPT.V` (R250), the whole command, under the parameters `p`; ignored while another runs (R72). -/
def decryptWith (p : Config.Params) (v : Bool) (s : State) : Answer :=
  .next (if s.stBusy then s else decryptCommand p v (s.accept (commandWord 0x03#8 v)))

/-- Phase `D_CHECK` (R251). -/
def execDCheck (s : State) : Answer := dCheckWith params s

/-- Phase `TAGSPLIT` (R217). -/
def execTagsplit (s : State) : Answer :=
  .next (if s.inLen.toNat < Config.tagLen then s.raise .tagShort
    else { s with wk.tagr := s.inputTag, phase := Phase.select })

/-- Phase `SELECT` (R253, R254): the three targets in their fixed order. -/
def execSelect (s : State) : Answer :=
  .next (let t : State := { s with wk.expected := s.tagFor (vField s.cmdReg) }
    if t.wk.tagr = t.wk.expected then { t with stPath := .current, phase := Phase.dKeychk }
    else if t.zeroVeKey.isSome then { t with stPath := .legacy, phase := Phase.lKeyfit }
    else t.raise .unsupportedVersion)

/-- Phase `D_KEYCHK` (R257). -/
def execDKeychk (s : State) : Answer :=
  .next (if s.cfg.mkey.length < Config.mkeyMin then s.raise .keyTooShort else s.goTo Phase.b64d)

/-- Phase `IVSPLIT` (R259). -/
def execIvsplit (s : State) : Answer :=
  .next (if s.wk.work.length < 16 then s.raise .ivShort
    else { s with wk.ivr := Bytes.ofList 16 s.wk.work, wk.work := s.wk.work.drop 16, phase := Phase.kdfInit })

/-- `DECRYPT` (R250), the whole command. -/
def execDecrypt (s : State) : Answer := decryptWith params false s

/-- `DECRYPT.V` (R250), the whole command. -/
def execDecryptV (s : State) : Answer := decryptWith params true s

end Sys2Proof.Machine
end

