-- ==== Sys2Proof/Machine/Encrypt.lean ====
section
/-!
DEFINITION. ENCRYPT and ENCRYPT.V (45_encrypt.md): the phases E_CHECK, RNG and TAGPUT, and the commands as one
transition.
-/

namespace Sys2Proof.Machine

/-- The checks of E_CHECK in their order; none when the command may go on (R231). -/
def eCheckError (p : Config.Params) (s : State) : Option ErrorCause :=
  if p.inMax < s.inLen.toNat then some .badLen
  else if s.cfg.valid = false then some .notConfigured
  else if s.cfg.mkey.length < Config.mkeyMin then some .keyTooShort
  else none

/-- `Enc(MKEY, tag, P, IV)` (R233). -/
def encText (p : Config.Params) (mkey : ByteString) (tag : Bytes 6) (x : ByteString) (iv : Bytes 16) : ByteString :=
  tag.val ++ b64Encode (iv.val ++ cbcEnc p.bc (p.kdfn mkey iv.val).val iv (spad x))

/-- ENCRYPT (`v = false`) and ENCRYPT.V (`v = true`) of an accepted state, for the answer `iv` of the random source (R230). -/
def encryptCommand (p : Config.Params) (iv : Bytes 16) (v : Bool) (s : State) : State :=
  match eCheckError p s with
  | some e => s.endFailed e.code
  | none => s.afterDraw.endOk p (encText p s.cfg.mkey (s.tagFor v) s.input iv)

/-- Phase `E_CHECK` (R231) under the parameters `p`. -/
def eCheckWith (p : Config.Params) (s : State) : Answer :=
  .next (match eCheckError p s with
    | some e => s.raise e
    | none => s.goTo Phase.rng)

/-- Phase `RNG` (R232) for the answer `iv` of the random source: the sixteen bytes are not tested in any way. -/
def rngWith (iv : Bytes 16) (s : State) : Answer :=
  .next { s.afterDraw with wk.ivr := iv, phase := Phase.kdfInit }

/-- `ENCRYPT` and `ENCRYPT.V` (R230), the whole command, under the parameters `p` and for the answer `iv` of the random
source; ignored while another runs (R72). -/
def encryptWith (p : Config.Params) (iv : Bytes 16) (v : Bool) (s : State) : Answer :=
  .next (if s.stBusy then s else encryptCommand p iv v (s.accept (commandWord 0x02#8 v)))

/-- Phase `E_CHECK` (R231). -/
def execECheck (s : State) : Answer := eCheckWith params s

/-- Phase `RNG` (R232). -/
def execRng (s : State) : Answer := rngWith s.nextDraw s

/-- Phase `TAGPUT` (R216). -/
def execTagput (s : State) : Answer :=
  .next { s with wk.work := (s.tagFor (vField s.cmdReg)).val ++ s.wk.work, phase := Phase.finish }

/-- `ENCRYPT` (R230), the whole command. -/
def execEncrypt (s : State) : Answer := encryptWith params s.nextDraw false s

/-- `ENCRYPT.V` (R230), the whole command. -/
def execEncryptV (s : State) : Answer := encryptWith params s.nextDraw true s

end Sys2Proof.Machine
end

