-- ==== Sys2Proof/Machine/Kdf.lean ====
section
/-!
DEFINITION. The key-derivation state machine (41_kdf.md R153 to R157): the phases KDF_INIT, KDF_ITER and KDF_DONE.
-/

namespace Sys2Proof.Machine

/-- Phase `KDF_INIT` (R154) under the parameters `p`: the message is the salt and the block index 1 as four big-endian
bytes. -/
def kdfInitWith (p : Config.Params) (s : State) : Answer :=
  .next
    { s with
      wk.kdfU := p.prf s.cfg.mkey (s.wk.ivr.val ++ [0#8, 0#8, 0#8, 1#8])
      wk.kdfT := p.prf s.cfg.mkey (s.wk.ivr.val ++ [0#8, 0#8, 0#8, 1#8])
      wk.kdfI := 1#14
      phase := Phase.kdfIter }

/-- Phase `KDF_ITER` (R155) under the parameters `p`. KDF_I is 1 to 9999 whenever a command brings it here (R50, R156); on
other values the same pseudocode runs, and the 14-bit counter wraps from 16383 to 0: the model's choice (log 24). -/
def kdfIterWith (p : Config.Params) (s : State) : Answer :=
  .next
    { s with
      wk.kdfU := p.prf s.cfg.mkey s.wk.kdfU.val
      wk.kdfT := xorReg s.wk.kdfT (p.prf s.cfg.mkey s.wk.kdfU.val)
      wk.kdfI := s.wk.kdfI + 1#14
      phase := if (s.wk.kdfI + 1#14).toNat < Config.kdfIterations then Phase.kdfIter else Phase.kdfDone }

/-- Phase `KDF_INIT` (R154). -/
def execKdfInit (s : State) : Answer := kdfInitWith params s

/-- Phase `KDF_ITER` (R155; log 24). -/
def execKdfIter (s : State) : Answer := kdfIterWith params s

/-- Phase `KDF_DONE` (R157): PAD follows in ENCRYPT, CBCD in DECRYPT. -/
def execKdfDone (s : State) : Answer :=
  .next
    { s with
      wk.dkey := s.wk.kdfT
      phase := if opcField s.cmdReg = 0x02#8 then Phase.pad else Phase.cbcd }

end Sys2Proof.Machine
end

