-- ==== Sys2Proof/Machine/Sequencer.lean ====
section
/-!
DEFINITION. The phases that every command shares: IDLE (R24), DECODE (R93), FINISH (R345), FAIL (R344); and the command
word that is none of the five (R93, R339).
-/

namespace Sys2Proof.Machine

/-- Phase `IDLE`: no command runs, nothing happens (R24, R371). -/
def execIdle (s : State) : Answer := .next s

/-- Phase `DECODE`: classify the latched word (R93). -/
def execDecode (s : State) : Answer :=
  .next (if opcField s.cmdReg ≠ 0x01#8 ∧ opcField s.cmdReg ≠ 0x02#8 ∧ opcField s.cmdReg ≠ 0x03#8 then s.raise .badOpc
    else if rsvField s.cmdReg ≠ 0#23 ∨ (opcField s.cmdReg = 0x01#8 ∧ vField s.cmdReg = true) then s.raise .badBits
    else if opcField s.cmdReg = 0x01#8 then s.goTo Phase.cCheck
    else if opcField s.cmdReg = 0x02#8 then s.goTo Phase.eCheck
    else s.goTo Phase.dCheck)

/-- Phase `FINISH` (R345) under the parameters `p`: the result is empty for CONFIG and WORK for the others. -/
def finishWith (p : Config.Params) (s : State) : Answer :=
  .next (s.endOk p (if opcField s.cmdReg = 0x01#8 then [] else s.wk.work))

/-- Phase `FINISH` (R345). -/
def execFinish (s : State) : Answer := finishWith params s

/-- Phase `FAIL` (R344). -/
def execFail (s : State) : Answer := .next (s.endFailed s.wk.raisedCode)

/-- The error of a word that is not a legal command (R93, R339). -/
def CommandReject.cause : CommandReject → ErrorCause
  | .badOpc => .badOpc
  | .badBits => .badBits

/-- A CMD write of an illegal word as one transition: accepted, then ended by `IllegalCommand` in DECODE (R72, R93). -/
def illegalCommand (s : State) (w : Word) (r : CommandReject) : State :=
  if s.stBusy then s else (s.accept w).endFailed (CommandReject.cause r).code

end Sys2Proof.Machine
end

