-- ==== Sys2Proof/Machine/Dispatch.lean ====
section
/-!
DEFINITION. The dispatch: one arm for each instruction, one direct call of its meaning.
-/

namespace Sys2Proof.Machine

def exec (i : Instr) (s : State) : Host.Outcome State Fault Refusal :=
  match i with
  | .config => Sys2Proof.Machine.execConfig s
  | .encrypt => Sys2Proof.Machine.execEncrypt s
  | .encryptV => Sys2Proof.Machine.execEncryptV s
  | .decrypt => Sys2Proof.Machine.execDecrypt s
  | .decryptV => Sys2Proof.Machine.execDecryptV s
  | .idle => Sys2Proof.Machine.execIdle s
  | .decode => Sys2Proof.Machine.execDecode s
  | .cCheck => Sys2Proof.Machine.execCCheck s
  | .cCommit => Sys2Proof.Machine.execCCommit s
  | .eCheck => Sys2Proof.Machine.execECheck s
  | .rng => Sys2Proof.Machine.execRng s
  | .kdfInit => Sys2Proof.Machine.execKdfInit s
  | .kdfIter => Sys2Proof.Machine.execKdfIter s
  | .kdfDone => Sys2Proof.Machine.execKdfDone s
  | .pad => Sys2Proof.Machine.execPad s
  | .cbce => Sys2Proof.Machine.execCbce s
  | .b64e => Sys2Proof.Machine.execB64e s
  | .tagput => Sys2Proof.Machine.execTagput s
  | .dCheck => Sys2Proof.Machine.execDCheck s
  | .tagsplit => Sys2Proof.Machine.execTagsplit s
  | .select => Sys2Proof.Machine.execSelect s
  | .dKeychk => Sys2Proof.Machine.execDKeychk s
  | .b64d => Sys2Proof.Machine.execB64d s
  | .ivsplit => Sys2Proof.Machine.execIvsplit s
  | .cbcd => Sys2Proof.Machine.execCbcd s
  | .unpad => Sys2Proof.Machine.execUnpad s
  | .lKeyfit => Sys2Proof.Machine.execLKeyfit s
  | .lB64d => Sys2Proof.Machine.execLB64d s
  | .lSplit => Sys2Proof.Machine.execLSplit s
  | .lCbcd => Sys2Proof.Machine.execLCbcd s
  | .lTrunc => Sys2Proof.Machine.execLTrunc s
  | .finish => Sys2Proof.Machine.execFinish s
  | .fail => Sys2Proof.Machine.execFail s

end Sys2Proof.Machine
end

