-- ==== Sys2Proof/Machine/HostLines.lean ====
section
/-!
DEFINITION. The host's line syntax (30_encoding.md R104, R105): each line is a pseudo-instruction that stands for a list of
host events. No meaning of an instruction uses this file; `step` uses `resultReads`.
-/

namespace Sys2Proof.Machine

/-- One line of a host program (R104). -/
inductive HostLine where
  /-- `CONFIG cur=<bytes> mkey=<bytes> leg <bytes>=<bytes> ...` -/
  | config (cur mkey : ByteString) (legs : List (ByteString × ByteString))
  /-- `ENCRYPT in=<bytes>`, with `ver=` and `iv=` where they stand -/
  | encrypt (input : ByteString) (ver : Option (Bytes 6)) (iv : Option (Bytes 16))
  /-- `DECRYPT in=<bytes>`, with `ver=` where it stands -/
  | decrypt (input : ByteString) (ver : Option (Bytes 6))
  /-- `RESET` -/
  | reset
deriving DecidableEq, Repr

/-- The bytes of `v` written to a space from offset 0 on, one access each (R68). -/
def writesTo (space : Nat) (v : ByteString) : List HostEvent := v.zipIdx.map (fun c => .writeBuf space c.2 c.1)

/-- A length register written with the length of `v`, of which a host write carries 32 bits (R27); that a longer string writes
the low 32 bits of its length is the model's choice (log 15). -/
def lengthWrite (n : Nat) (v : ByteString) : HostEvent := .writeReg n (BitVec.ofNat 32 v.length)

/-- Entry `i` of the staged legacy table (R105). -/
def legWrites (leg : ByteString × ByteString) (i : Nat) : List HostEvent :=
  lengthWrite (16 + 2 * i) leg.1 :: writesTo (16 + 2 * i) leg.1 ++
    lengthWrite (17 + 2 * i) leg.2 :: writesTo (17 + 2 * i) leg.2

/-- The input, then the override if there is one (R105). -/
def operandWrites (input : ByteString) (ver : Option (Bytes 6)) : List HostEvent :=
  writesTo 1 input ++ lengthWrite 3 input :: (match ver with | some v => writesTo 3 v.val | none => [])

/-- The reads of a result of `n` bytes: `OUTBUF[0..n)` (R105). -/
def resultReads (n : Nat) : List HostEvent := (List.range n).map (.readBuf 2)

/-- The reads after the end of a command: STATUS, ERRCODE, OUT_LEN, and then `OUTBUF[0..OUT_LEN)`, whose number of accesses is
known only when OUT_LEN has been read: the event `readResult` stands for them (R105). -/
def outcomeReads : List HostEvent := [.readReg 1, .readReg 2, .readReg 4, .readResult]

/-- The host accesses a line expands to (R105). The write to CMD and the wait for DONE are the event of a whole command
(R72; log 16); `iv=` is the answer to the draw of that command and of no other (R104). -/
def HostLine.expand : HostLine → List HostEvent
  | .config cur mkey legs =>
    lengthWrite 5 cur :: writesTo 4 cur ++ lengthWrite 6 mkey :: writesTo 5 mkey ++
      .writeReg 7 (BitVec.ofNat 32 legs.length) :: (legs.zipIdx.flatMap (fun c => legWrites c.1 c.2)) ++
      .command 0x00000001#32 none :: outcomeReads
  | .encrypt input ver iv =>
    operandWrites input ver ++ .command (if ver.isSome then 0x00000102#32 else 0x00000002#32) iv :: outcomeReads
  | .decrypt input ver =>
    operandWrites input ver ++ .command (if ver.isSome then 0x00000103#32 else 0x00000003#32) none :: outcomeReads
  | .reset => [.reset]

/-- The state with a host program after the events still to come: its lines expanded. -/
def State.withProgram (s : State) (lines : List HostLine) : State :=
  { s with agenda := s.agenda ++ lines.flatMap HostLine.expand }

end Sys2Proof.Machine
end

