-- ==== Sys2Proof/Machine/Events.lean ====
section
/-!
DEFINITION. What one event of the agenda does (log 2), over the parameters of R10 and over what the engine does with an
instruction: `step` gives them the defaults and `exec`, `stepWith` any parameters and `execWith` (R21).
-/

namespace Sys2Proof.Machine

/-- The engine runs the micro-operation PHASE holds (R24, R96). -/
def engineStep (run : Instr → State → Answer) (s : State) : Answer :=
  match decodePhase s.phase with
  | some i => run i s
  | none => .fault .reservedPhase

/-- A command issued as a whole (R72, last sentence): the instruction its word stands for, or `IllegalCommand`. -/
def commandStep (run : Instr → State → Answer) (w : Word) (s : State) : Answer :=
  match decodeCommand w with
  | .ok i => run i s
  | .error r => .next (illegalCommand s w r)

/-- What one event does. The event itself leaves the agenda afterwards (`consume`). -/
def eventStep (p : Config.Params) (run : Instr → State → Answer) (e : HostEvent) (s : State) : Answer :=
  match e with
  | .engine _ => engineStep run s
  | .readReg n => .next { s with hostData := hostReadReg p s n }
  | .writeReg n v => .next (hostWriteReg p s n v)
  | .readBuf space off => .next { s with hostData := (hostReadBuf p s space off).setWidth 32 }
  | .writeBuf space off b => .next (hostWriteBuf p s space off b)
  | .command w _ => commandStep run w s
  | .readResult => .next { s with agenda := .readResult :: (resultReads s.hostData.toNat ++ s.agenda.tail) }
  | .reset => .next (s.afterReset p)

/-- The event that was carried out leaves the agenda. -/
def consume : Answer → Answer
  | .next s => .next { s with agenda := s.agenda.tail }
  | .fault r => .fault r
  | .refused r => .refused r

/-- The next event of the agenda, or, when the agenda is empty, one phase of the engine. -/
def agendaStep (p : Config.Params) (run : Instr → State → Answer) (s : State) : Answer :=
  match s.agenda with
  | [] => engineStep run s
  | e :: _ => consume (eventStep p run e s)

end Sys2Proof.Machine
end

