-- ==== Sys2Proof/Machine/Step.lean ====
section
/-!
DEFINITION. One step of the QFVC: the next event of the agenda, or, when the agenda is empty, one phase of the engine
(log 2), at the default parameters (log 6).
-/

namespace Sys2Proof.Machine

/-- One step. -/
def step (s : State) : Host.Outcome State Fault Refusal := agendaStep params exec s

/-- The state with one instruction where `step` takes its next one: a micro-operation in PHASE, to be run by the engine;
a command word as the next event, the engine idle so that the command is accepted (log 15). -/
def State.withFetchWord (s : State) (nbits w : Nat) : State :=
  if nbits ≤ 8 then
    { s with phase := BitVec.ofNat 5 w, agenda := if s.agenda.isEmpty then [] else .engine none :: s.agenda }
  else
    { s with stBusy := false, phase := Phase.idle, agenda := .command (BitVec.ofNat 32 w) none :: s.agenda }

end Sys2Proof.Machine
end

