-- ==== Sys2Proof/Machine/Parametric.lean ====
section
/-!
DEFINITION. The machine for every choice of the parameters of R10, with the parameters and the answer of the random source as
arguments of the step relation (R21). `step` is this machine at R10's defaults (log 6).
-/

namespace Sys2Proof.Machine

/-- The meaning of an instruction under the parameters `p`, for the answer `iv` of the random source (R10, R21). -/
def execWith (p : Config.Params) (iv : Bytes 16) (i : Instr) (s : State) : Answer :=
  match i with
  | .config => configWith p s
  | .encrypt => encryptWith p iv false s
  | .encryptV => encryptWith p iv true s
  | .decrypt => decryptWith p false s
  | .decryptV => decryptWith p true s
  | .idle => execIdle s
  | .decode => execDecode s
  | .cCheck => cCheckWith p s
  | .cCommit => execCCommit s
  | .eCheck => eCheckWith p s
  | .rng => rngWith iv s
  | .kdfInit => kdfInitWith p s
  | .kdfIter => kdfIterWith p s
  | .kdfDone => execKdfDone s
  | .pad => execPad s
  | .cbce => cbceWith p s
  | .b64e => execB64e s
  | .tagput => execTagput s
  | .dCheck => dCheckWith p s
  | .tagsplit => execTagsplit s
  | .select => execSelect s
  | .dKeychk => execDKeychk s
  | .b64d => b64dWith p s
  | .ivsplit => execIvsplit s
  | .cbcd => cbcdWith p s
  | .unpad => execUnpad s
  | .lKeyfit => execLKeyfit s
  | .lB64d => lB64dWith p s
  | .lSplit => lSplitWith p s
  | .lCbcd => lCbcdWith p s
  | .lTrunc => execLTrunc s
  | .finish => finishWith p s
  | .fail => execFail s

/-- One step under the parameters `p`, for the answer `iv` of the random source should the step draw (R10, R21). -/
def stepWith (p : Config.Params) (iv : Bytes 16) (s : State) : Answer := agendaStep p (execWith p iv) s

/-- The machine under the parameters `p`, its draws answered as `State.nextDraw` says (log 3). -/
def coreWith (p : Config.Params) : Host.Core :=
  { State := State, Fault := Fault, Refusal := Refusal
    step := fun s => stepWith p s.nextDraw s
    reset := State.resetWith p.nlegMax }

/-- `KDFN` is the function that the three phases compute with `PRF`: PBKDF2, 10000 iterations, 32 bytes (R151, R153). -/
def KdfIsPbkdf2 (p : Config.Params) : Prop :=
  ∀ k salt, p.kdfn k salt = Bytes.ofList 32 (pbkdf2 p.prf k salt Config.kdfIterations 32)

end Sys2Proof.Machine
end

