-- ==== Sys2Proof/Safety.lean ====
section
/-!
DEFINITION. The terms claims are stated in: the byte of a space, what a command's end leaves, whose turn a step is, and
the invariants of the machine.
-/

namespace Sys2Proof.Machine

/-- The byte at an offset of the space with number `space` (R31, R60), whether or not the host may read it. -/
def byteAt (s : State) (space off : Nat) : Byte :=
  if space = 1 then s.inbuf.read off
  else if space = 2 then s.outbuf.read off
  else if space = 3 then s.vtag.read off
  else if space = 4 then s.sCurTag.read off
  else if space = 5 then s.sMkey.read off
  else if 16 ≤ space ∧ space % 2 = 0 then (s.slot ((space - 16) / 2)).tag.read off
  else if 16 ≤ space then (s.slot ((space - 16) / 2)).key.read off
  else 0#8

/-- Every byte of every space reads in `t` as in `s`. -/
def SameBytes (s t : State) : Prop := ∀ space off, byteAt t space off = byteAt s space off

/-- Every byte of every space but OUTBUF (space 2) reads in `t` as in `s`. -/
def SameBytesButOut (s t : State) : Prop := ∀ space off, space ≠ 2 → byteAt t space off = byteAt s space off

/-- `t` is `s` after a `raise` with error code `code`: the sequencer stands at FAIL, the code waits there, nothing else
differs (R344; log 5). -/
def Raised (s : State) (code : BitVec 8) (t : State) : Prop :=
  t = { s with phase := 27#5, wk := { s.wk with raisedCode := code } } ∧ SameBytes s t

/-- `t` is `s` with the sequencer at `target` and nothing else changed. -/
def Advanced (s : State) (target : BitVec 5) (t : State) : Prop := t = { s with phase := target } ∧ SameBytes s t

/-- `t` is `s` after the successful end of the command `w` with result `v` on branch `path` (R345): the result and zeros
after it in OUTBUF, its length in OUT_LEN, ERRCODE 0, DONE alone of BUSY, DONE, ERR; nothing else differs. -/
def EndedOk (s : State) (w : Word) (path : Path) (v : ByteString) (t : State) : Prop :=
  t = { s with
    cmdReg := w, stBusy := false, stDone := true, stErr := false, stPath := path, phase := 0#5, errCode := 0#8,
    outLen := t.outLen, outbuf := t.outbuf }
  ∧ t.outLen.toNat = v.length ∧ (∀ k, t.outbuf.read k = v.getD k 0#8) ∧ SameBytesButOut s t

/-- `t` is `s` after the end of the command `w` by the error with code `code` on branch `path` (R344): the code in
ERRCODE, OUT_LEN 0, every byte of OUTBUF 00, ERR and DONE set; nothing else differs. -/
def EndedFailed (s : State) (w : Word) (path : Path) (code : BitVec 8) (t : State) : Prop :=
  t = { s with
    cmdReg := w, stBusy := false, stDone := true, stErr := true, stPath := path, phase := 0#5, errCode := code,
    outLen := 0#32, outbuf := t.outbuf }
  ∧ (∀ k, t.outbuf.read k = 0#8) ∧ SameBytesButOut s t

/-- The two forms of ENCRYPT: the instruction, its command word, and the tag it puts in front (R92, R216). -/
def EncryptForm (s : State) (i : Instr) (w : Word) (tag : ByteString) : Prop :=
  (i = .encrypt ∧ w = 0x00000002#32 ∧ tag = s.cfg.curTag.val)
  ∨ (i = .encryptV ∧ w = 0x00000102#32 ∧ tag = s.vtag.readBytes 0 6)

/-- The two forms of DECRYPT: the instruction, its command word, and the tag it expects (R92, R253). -/
def DecryptForm (s : State) (i : Instr) (w : Word) (tag : ByteString) : Prop :=
  (i = .decrypt ∧ w = 0x00000003#32 ∧ tag = s.cfg.curTag.val)
  ∨ (i = .decryptV ∧ w = 0x00000103#32 ∧ tag = s.vtag.readBytes 0 6)

/-- `c` is the base64 character of the value `v`, by the ranges of R211: `A` to `Z`, `a` to `z`, `0` to `9`, `+`, `/`. -/
def IsBase64Char (v : Nat) (c : Byte) : Prop :=
  (v < 26 ∧ c.toNat = 0x41 + v) ∨ (26 ≤ v ∧ v < 52 ∧ c.toNat = 0x61 + (v - 26)) ∨
  (52 ≤ v ∧ v < 62 ∧ c.toNat = 0x30 + (v - 52)) ∨ (v = 62 ∧ c = 0x2b#8) ∨ (v = 63 ∧ c = 0x2f#8)

/-- `c` is the base64 character of the value `v`, or the pad character `=`, which stands for six zero bits (R213). -/
def IsBase64Digit (v : Nat) (c : Byte) : Prop := IsBase64Char v c ∨ (v = 0 ∧ c = 0x3d#8)

/-- The next step is one phase of the engine. -/
def EngineTurn (s : State) : Prop := s.agenda = [] ∨ ∃ answer, s.agenda.head? = some (.engine answer)

/-- The next step is the whole command with word `w`, and it is not ignored. -/
def CommandTurn (s : State) (w : Word) : Prop :=
  (∃ answer, s.agenda.head? = some (.command w answer)) ∧ s.stBusy = false

/-- The state without its working registers: what R46 lets survive a command, and everything else. -/
def State.withoutWork (s : State) : State := { s with wk := WorkRegs.reset }

/-- One staging slot in canonical form and inside its capacities (R31). -/
def StagedEntry.Canonical (e : StagedEntry) : Prop :=
  e.tag.wf ∧ e.tag.within params.stagMax ∧ e.key.wf ∧ e.key.within params.lkeyMax

/-- Every buffer space is in canonical form and inside its size, and the staging area has its slots (R31, R60). -/
structure SpacesCanonical (s : State) : Prop where
  inbuf : s.inbuf.wf ∧ s.inbuf.within params.inMax
  outbuf : s.outbuf.wf ∧ s.outbuf.within params.outMax
  vtag : s.vtag.wf ∧ s.vtag.within 6
  sCurTag : s.sCurTag.wf ∧ s.sCurTag.within params.stagMax
  sMkey : s.sMkey.wf ∧ s.sMkey.within params.mkeyMax
  slots : s.staged.length = params.nlegMax
  staged : ∀ e ∈ s.staged, e.Canonical

/-- The sequencer and the flags agree (R24, R28, R96, R332): PHASE holds an assigned code; BUSY is set exactly while it is
not IDLE; BUSY and DONE are never both set; ERRCODE holds 0 or one of the sixteen codes; an error waits when PHASE is
FAIL; a finished command has ERR set exactly when ERRCODE is not 0. -/
structure SequencerCoherent (s : State) : Prop where
  assigned : s.phase.toNat < 28
  busy : s.stBusy = true ↔ s.phase ≠ 0#5
  notBoth : ¬ (s.stBusy = true ∧ s.stDone = true)
  errCode : s.errCode = 0#8 ∨ ∃ e : ErrorCause, s.errCode = e.code
  failing : s.phase = 27#5 → ∃ e : ErrorCause, s.wk.raisedCode = e.code
  finished : s.stDone = true → (s.stErr = true ↔ s.errCode ≠ 0#8)

/-- The phases in which no operand of ENCRYPT or DECRYPT has been checked, or none is still read: IDLE, DECODE, C_CHECK,
C_COMMIT, E_CHECK, D_CHECK, FINISH, FAIL. -/
abbrev outsideBody (phase : BitVec 5) : Prop :=
  phase = 0#5 ∨ phase = 1#5 ∨ phase = 2#5 ∨ phase = 3#5 ∨ phase = 4#5 ∨ phase = 13#5 ∨ phase = 26#5 ∨ phase = 27#5

/-- The output is where R345 says: OUT_LEN at most OUT_MAX, 00 at and beyond OUT_LEN. The last two fields say why: past
the entry checks the input fits INBUF, and WORK never outgrows what its phase may hand on, OUT_MAX at FINISH. -/
structure OutputBounded (s : State) : Prop where
  outLen : s.outLen.toNat ≤ params.outMax
  tail : ∀ k, s.outLen.toNat ≤ k → s.outbuf.read k = 0#8
  inLen : ¬ outsideBody s.phase → s.inLen.toNat ≤ params.inMax
  work : s.wk.work.length ≤ params.outMax
  padded : s.phase = 10#5 ∨ s.phase = 11#5 → s.wk.work.length ≤ 16 * (params.inMax / 16 + 1)
  encoded : s.phase = 12#5 → s.wk.work.length + 6 ≤ params.outMax

/-- No phase that uses the Config runs without one, none that uses the master key runs with a short one (R231, R251, R257,
R333), and KDF_I counts from 1 to 10000 (R155, R156). -/
structure KeyGuarded (s : State) : Prop where
  configured : s.phase = 14#5 ∨ s.phase = 15#5 ∨ s.phase = 16#5 → s.cfg.valid = true
  longKey : s.phase = 5#5 ∨ s.phase = 6#5 ∨ s.phase = 7#5 ∨ s.phase = 8#5 ∨ s.phase = 17#5 ∨ s.phase = 18#5 →
    s.cfg.valid = true ∧ 32 ≤ s.cfg.mkey.length
  counting : s.phase = 7#5 → 1 ≤ s.wk.kdfI.toNat ∧ s.wk.kdfI.toNat < 10000
  counted : s.phase = 8#5 → s.wk.kdfI.toNat = 10000

end Sys2Proof.Machine
end

