-- ==== Sys2Proof/WellFormed.lean ====
section
/-!
DEFINITION. Well-formedness. An instruction of the QFVC has no operand, so every `Instr` is well formed (R90, R94);
what can be ill formed is a CODE: a command word with an unknown operation code, with a reserved bit set or with V on
CONFIG (R92, R93), and a phase code above 27 (R96). Each check stands alone, so that a test can break it alone.
-/

namespace Sys2Proof

/-- R93, first check: the operation code is one of the three assigned ones. -/
abbrev WellFormed.opcode (w : Word) : Prop := w.toNat % 256 = 1 ∨ w.toNat % 256 = 2 ∨ w.toNat % 256 = 3

/-- R93, second check: bits 31:9 are zero. -/
abbrev WellFormed.reservedBits (w : Word) : Prop := w.toNat / 512 = 0

/-- R93, third check: CONFIG carries no version override. -/
abbrev WellFormed.noOverrideOnConfig (w : Word) : Prop := ¬ (w.toNat % 256 = 1 ∧ w.toNat / 256 % 2 = 1)

/-- R96: codes 28 to 31 are never taken by PHASE. -/
abbrev WellFormed.phaseCode (c : BitVec 5) : Prop := c.toNat < 28

/-- A code the opcode table lists. -/
abbrev Code.WellFormed : Code → Prop
  | .command w => WellFormed.opcode w ∧ WellFormed.reservedBits w ∧ WellFormed.noOverrideOnConfig w
  | .phase c => WellFormed.phaseCode c

/-- Every instruction is well formed: it has no field that could be out of range (R90, R94). -/
abbrev Instr.WellFormed (_ : Instr) : Prop := True

end Sys2Proof
end

