-- ==== Sys2Proof/Certificates/Slice0/Obligations.lean ====
section
/-!
DEFINITION. The statements about the QFVC. Phase codes are written as the numbers of R96 and error codes as the numbers of
R332, so that a wrong constant of the model would make them false.
-/

open Sys2Proof Sys2Proof.Machine

/-! ### Encoding and stepping -/

/-- Decoding and encoding agree over every code (R92, R93, R96): a code of either kind decodes to an instruction exactly
when it is that instruction's code, and it decodes to some instruction exactly when it passes the checks of
`WellFormed.lean`. -/
def Obligations.DecodeIsInverseOfEncode : Prop :=
  ∀ c : Code, (∀ i, decode c = some i ↔ encode i = c) ∧ ((decode c).isSome = true ↔ c.WellFormed)

/-- A few codes written out from R92 and R96 decode to the instruction they stand for. -/
def Obligations.WrittenOutCodesDecode : Prop :=
  decodeTableWord 32 0x00000001 = some .config ∧ decodeTableWord 32 0x00000002 = some .encrypt ∧
  decodeTableWord 32 0x00000102 = some .encryptV ∧ decodeTableWord 32 0x00000103 = some .decryptV ∧
  decodeTableWord 8 0b00111 = some .kdfIter ∧ decodeTableWord 8 0b01111 = some .select ∧
  decodeTableWord 8 0b10101 = some .lKeyfit ∧ decodeTableWord 8 0b11011 = some .fail ∧
  decodeTableWord 8 0b11100 = none ∧ decodeTableWord 32 0x00000101 = none

/-- A step runs the decoded instruction or the host's access: the micro-operation of PHASE on an engine's turn, the command of
the word when a whole command is issued, and for a host access (R27, R31, R68) exactly what the functions of the next
statements give. The only thing `step` adds is that the event it carried out leaves the agenda. The agenda with its events,
and the two granularities side by side, are the model's (logs 1, 2, 4, 15). -/
def Obligations.StepRunsTheDecodedInstruction : Prop :=
  ∀ (s : State) (i : Instr) (rest : List HostEvent),
    (s.agenda = [] → decodePhase s.phase = some i → step s = exec i s) ∧
    (∀ a, s.agenda = .engine a :: rest → decodePhase s.phase = some i →
      ∀ t, exec i s = .next t → t.agenda = s.agenda ∧ step s = .next { t with agenda := rest }) ∧
    (∀ w a, s.agenda = .command w a :: rest → decodeCommand w = .ok i →
      ∀ t, exec i s = .next t → t.agenda = s.agenda ∧ step s = .next { t with agenda := rest }) ∧
    (∀ n, s.agenda = .readReg n :: rest →
      step s = .next { s with agenda := rest, hostData := hostReadReg params s n }) ∧
    (∀ n v, s.agenda = .writeReg n v :: rest → step s = .next { hostWriteReg params s n v with agenda := rest }) ∧
    (∀ sp off, s.agenda = .readBuf sp off :: rest →
      step s = .next { s with agenda := rest, hostData := (hostReadBuf params s sp off).setWidth 32 }) ∧
    (∀ sp off b, s.agenda = .writeBuf sp off b :: rest →
      step s = .next { hostWriteBuf params s sp off b with agenda := rest }) ∧
    (s.agenda = .readResult :: rest →
      step s = .next { s with agenda := (List.range s.hostData.toNat).map (.readBuf 2) ++ rest })

/-- Every step from an assigned phase code answers a next state (R264, R347), and so does every instruction; the one stop
is the engine's turn at a reserved code, which is the model's choice (log 11). -/
def Obligations.OnlyReservedPhasesStop : Prop :=
  (∀ i s, ∃ t, exec i s = .next t) ∧
  (∀ s : State, s.phase.toNat < 28 → ∃ t, step s = .next t) ∧
  (∀ s : State, (∃ f, step s = .fault f) ↔ EngineTurn s ∧ 28 ≤ s.phase.toNat) ∧
  (∀ s r, step s ≠ .refused r)

/-! ### The host's side -/

/-- R72, both branches: the host's write of `w` to CMD is ignored while a command runs; otherwise it latches `w`, sets BUSY,
clears DONE, ERR and PATH, and puts the sequencer at DECODE. Nothing else changes. That the phases follow one by one is the
model's reading of R19 (log 1). -/
def Obligations.CmdWriteStartsACommand : Prop :=
  ∀ (s : State) (w : Word) (rest : List HostEvent), s.agenda = .writeReg 0 w :: rest →
    ∃ t, step s = .next t ∧ SameBytes s t ∧
      (s.stBusy = true → t = { s with agenda := rest }) ∧
      (s.stBusy = false →
        t = { s with
          cmdReg := w, stBusy := true, stDone := false, stErr := false, stPath := .noBranch, phase := 1#5,
          agenda := rest })

/-- R93 and R339 for a whole command: a word that is none of the five ends with IllegalCommand, BAD_OPC (0x19) when OPC is
not 1, 2 or 3, else BAD_BITS (0x29) when a reserved bit is set or V is set on CONFIG; and it touches neither the Config nor
the random source. The event that issues a word as a whole command is the model's (log 16). -/
def Obligations.IllegalCommandEndsInError : Prop :=
  ∀ (s : State) (w : Word) (a : Option (Bytes 16)) (rest : List HostEvent), s.agenda = .command w a :: rest →
    s.stBusy = false →
    (¬ (w.toNat % 256 = 1 ∨ w.toNat % 256 = 2 ∨ w.toNat % 256 = 3) →
      ∃ t, step s = .next { t with agenda := rest } ∧ EndedFailed s w .noBranch 0x19#8 t) ∧
    (w.toNat % 256 = 1 ∨ w.toNat % 256 = 2 ∨ w.toNat % 256 = 3 →
      512 ≤ w.toNat ∨ (w.toNat % 256 = 1 ∧ w.toNat / 256 % 2 = 1) →
      ∃ t, step s = .next { t with agenda := rest } ∧ EndedFailed s w .noBranch 0x29#8 t)

/-- R380: while a command runs, a host write of any register or byte, and a whole command, change nothing; a read of any
register but STATUS, and of any byte, returns 0; STATUS reads its true value, with BUSY = 1 and, in a coherent state,
DONE = 0. That a whole command issued meanwhile changes nothing is the model's (log 16), and so is the field that receives
what a read returns (log 4). -/
def Obligations.BusyEngineIgnoresTheHost : Prop :=
  ∀ (s : State) (rest : List HostEvent), s.stBusy = true →
    (∀ n v, s.agenda = .writeReg n v :: rest → step s = .next { s with agenda := rest }) ∧
    (∀ sp off b, s.agenda = .writeBuf sp off b :: rest → step s = .next { s with agenda := rest }) ∧
    (∀ w a, s.agenda = .command w a :: rest → step s = .next { s with agenda := rest }) ∧
    (∀ n, n ≠ 1 → s.agenda = .readReg n :: rest → step s = .next { s with agenda := rest, hostData := 0#32 }) ∧
    (∀ sp off, s.agenda = .readBuf sp off :: rest → step s = .next { s with agenda := rest, hostData := 0#32 }) ∧
    (s.agenda = .readReg 1 :: rest → step s = .next { s with agenda := rest, hostData := s.status }) ∧
    s.status.toNat % 2 = 1 ∧ (SequencerCoherent s → s.status.toNat / 2 % 2 = 0)

/-- R69: a host read changes no state of the QFVC, only what the host holds; read twice, it gives the same value. -/
def Obligations.ReadsHaveNoSideEffect : Prop :=
  ∀ (s : State) (e : HostEvent) (rest : List HostEvent),
    ((∃ n, e = .readReg n) ∨ ∃ sp off, e = .readBuf sp off) → s.agenda = e :: e :: rest →
    ∃ t u, step s = .next t ∧ step t = .next u ∧ t = { s with agenda := e :: rest, hostData := t.hostData } ∧
      u = { t with agenda := rest } ∧ SameBytes s t

/-- R28: each field of STATUS stands at its bits and the reserved bits read 0. -/
def Obligations.StatusBitsStandWhereTheSpecPutsThem : Prop :=
  ∀ s : State,
    s.status.toNat = (if s.stBusy then 1 else 0) + (if s.stDone then 2 else 0) + (if s.stErr then 4 else 0) +
      (if s.cfg.valid then 8 else 0) +
      16 * (match s.stPath with | .noBranch => 0 | .current => 1 | .legacy => 2) + 256 * s.phase.toNat

/-- R27, R63: what a register read returns and what a register write stores while no command runs, number by number and by
the name of the element behind it; the write of CMD (register 0) apart. A narrow register keeps the low bits, and reads them
with zeros above; read-only and reserved numbers ignore writes; reserved numbers and CMD read 0. -/
def Obligations.RegistersReadBackByNumber : Prop :=
  ∀ (s : State) (v : Word), s.stBusy = false → s.staged.length = 8 →
    (hostReadReg params s 1 = s.status ∧ hostReadReg params s 2 = s.errCode.setWidth 32 ∧
      hostReadReg params s 3 = s.inLen ∧ hostReadReg params s 4 = s.outLen ∧
      hostReadReg params s 5 = s.sCurTagLen.setWidth 32 ∧ hostReadReg params s 6 = s.sMkeyLen.setWidth 32 ∧
      hostReadReg params s 7 = s.sNleg.setWidth 32 ∧
      ∀ i < 8, hostReadReg params s (16 + 2 * i) = (s.slot i).tagLen.setWidth 32 ∧
        hostReadReg params s (17 + 2 * i) = (s.slot i).keyLen.setWidth 32) ∧
    (hostWriteReg params s 3 v = { s with inLen := v } ∧
      hostWriteReg params s 5 v = { s with sCurTagLen := v.setWidth 8 } ∧
      hostWriteReg params s 6 v = { s with sMkeyLen := v.setWidth 16 } ∧
      hostWriteReg params s 7 v = { s with sNleg := v.setWidth 8 } ∧
      ∀ i < 8,
        (∃ t, hostWriteReg params s (16 + 2 * i) v = t ∧ t = { s with staged := t.staged } ∧ t.staged.length = 8 ∧
          ∀ j, t.slot j = if j = i then { s.slot i with tagLen := v.setWidth 8 } else s.slot j) ∧
        (∃ t, hostWriteReg params s (17 + 2 * i) v = t ∧ t = { s with staged := t.staged } ∧ t.staged.length = 8 ∧
          ∀ j, t.slot j = if j = i then { s.slot i with keyLen := v.setWidth 16 } else s.slot j)) ∧
    (∀ n, n = 0 ∨ (8 ≤ n ∧ n < 16) ∨ 32 ≤ n → hostReadReg params s n = 0#32) ∧
    (∀ n, n = 1 ∨ n = 2 ∨ n = 4 ∨ (8 ≤ n ∧ n < 16) ∨ 32 ≤ n → hostWriteReg params s n v = s) ∧
    (∀ n, n = 3 ∨ n = 5 ∨ n = 6 ∨ n = 7 ∨ (16 ≤ n ∧ n < 32) →
      (hostReadReg params (hostWriteReg params s n v) n).toNat =
        (if n = 3 then v.toNat else if n = 6 ∨ (16 ≤ n ∧ n % 2 = 1) then v.toNat % 65536 else v.toNat % 256) ∧
      (∀ m, m ≠ n → hostReadReg params (hostWriteReg params s n v) m = hostReadReg params s m) ∧
      SameBytes s (hostWriteReg params s n v))

/-- R31, R63, R68, R69: a host byte write stores its byte at its offset of a writable space and changes nothing else, no other
byte and no register; outside every writable space it stores nothing. A host byte read gives the byte of INBUF, OUTBUF and
VTAG, and 00 of everything else. That a space number R31 does not list (0, 6 to 15, 32 and above) reads 00 and ignores
writes is the model's (log 14). -/
def Obligations.HostBytesGoWhereTheyAreAddressed : Prop :=
  ∀ (s : State) (space off : Nat) (b : Byte), s.stBusy = false → SpacesCanonical s →
    (∀ space' off', byteAt (hostWriteBuf params s space off b) space' off' =
      if space' = space ∧ off' = off ∧
          ((space = 1 ∧ off < 65535) ∨ (space = 3 ∧ off < 6) ∨ (space = 4 ∧ off < 255) ∨ (space = 5 ∧ off < 256) ∨
            (16 ≤ space ∧ space < 32 ∧ space % 2 = 0 ∧ off < 255) ∨ (16 ≤ space ∧ space < 32 ∧ space % 2 = 1 ∧ off < 256))
      then b else byteAt s space' off') ∧
    (∃ t, hostWriteBuf params s space off b = t ∧
      t = { s with inbuf := t.inbuf, vtag := t.vtag, sCurTag := t.sCurTag, sMkey := t.sMkey, staged := t.staged } ∧
      t.staged.length = s.staged.length ∧
      ∀ i, (t.slot i).tagLen = (s.slot i).tagLen ∧ (t.slot i).keyLen = (s.slot i).keyLen) ∧
    (∀ n, hostReadReg params (hostWriteBuf params s space off b) n = hostReadReg params s n) ∧
    hostReadBuf params s space off =
      if (space = 1 ∧ off < 65535) ∨ (space = 2 ∧ off < 87410) ∨ (space = 3 ∧ off < 6) then byteAt s space off else 0#8

/-- R20: no host read depends on the Config (but for CFG_VALID), on the bytes of the staging area, on the working
registers or on the random source (its answers stand in the agenda, log 3): two states that agree on everything else give
every read the same value. -/
def Obligations.SecretsAreNotReadable : Prop :=
  ∀ (s : State) (cfg : CommittedConfig) (wk : WorkRegs) (ag : List HostEvent) (d : Nat) (tagBytes keyBytes : Memory)
    (slots : List StagedEntry),
    cfg.valid = s.cfg.valid → slots.map (fun e => (e.tagLen, e.keyLen)) = s.staged.map (fun e => (e.tagLen, e.keyLen)) →
    (∀ n, hostReadReg params
        { s with cfg := cfg, wk := wk, agenda := ag, draws := d, sCurTag := tagBytes, sMkey := keyBytes, staged := slots } n
      = hostReadReg params s n) ∧
    (∀ space off, hostReadBuf params
        { s with cfg := cfg, wk := wk, agenda := ag, draws := d, sCurTag := tagBytes, sMkey := keyBytes, staged := slots }
        space off
      = hostReadBuf params s space off)

/-- R370: the reset event, at any time, makes every element of the spec's state zero and every byte 00, and leaves the
sequencer in IDLE. That LKFIT, MKEY, the table and WORK are then empty, rather than zero bytes under a length of 0, is how the
model holds them (log 12). -/
def Obligations.ResetClearsEverything : Prop :=
  ∀ (s : State) (rest : List HostEvent), s.agenda = .reset :: rest →
    ∃ t, step s = .next t ∧ t.status = 0#32 ∧ t.phase = 0#5 ∧ t.cmdReg = 0#32 ∧ t.errCode = 0#8 ∧
      (∀ n, hostReadReg params t n = 0#32) ∧ (∀ space off, byteAt t space off = 0#8) ∧
      t.cfg.valid = false ∧ t.cfg.curTag.val = List.replicate 6 0#8 ∧ t.cfg.mkey = [] ∧ t.cfg.legacy = [] ∧
      t.inLen = 0#32 ∧ t.outLen = 0#32 ∧ t.sCurTagLen = 0#8 ∧ t.sMkeyLen = 0#16 ∧ t.sNleg = 0#8 ∧
      (∀ i, (t.slot i).tagLen = 0#8 ∧ (t.slot i).keyLen = 0#16) ∧
      t.wk.ivr.val = List.replicate 16 0#8 ∧ t.wk.dkey.val = List.replicate 32 0#8 ∧
      t.wk.kdfU.val = List.replicate 32 0#8 ∧ t.wk.kdfT.val = List.replicate 32 0#8 ∧ t.wk.kdfI = 0#14 ∧ t.wk.lkfit = [] ∧
      t.wk.tagr.val = List.replicate 6 0#8 ∧ t.wk.expected.val = List.replicate 6 0#8 ∧ t.wk.work = [] ∧ t.wk.elen = 0 ∧
      t.wk.plen = 0

/-! ### The phases every command shares -/

/-- R93: DECODE, with the fields of R91 read as numbers. -/
def Obligations.DecodePhaseBranches : Prop :=
  ∀ s : State, ∃ t, exec .decode s = .next t ∧
    (if ¬ (s.cmdReg.toNat % 256 = 1 ∨ s.cmdReg.toNat % 256 = 2 ∨ s.cmdReg.toNat % 256 = 3) then Raised s 0x19#8 t
      else if 512 ≤ s.cmdReg.toNat ∨ (s.cmdReg.toNat % 256 = 1 ∧ s.cmdReg.toNat / 256 % 2 = 1) then Raised s 0x29#8 t
      else if s.cmdReg.toNat % 256 = 1 then Advanced s 2#5 t
      else if s.cmdReg.toNat % 256 = 2 then Advanced s 4#5 t
      else Advanced s 13#5 t)

/-- R345: FINISH writes the result of the command, empty for CONFIG and WORK for the others, and ends it. The premise is
that the result fits OUTBUF, as it always does (`OutputBounded`; log 18). That a word of another OPC than the three delivers
WORK is the model's choice (log 26). -/
def Obligations.FinishDeliversTheResult : Prop :=
  ∀ s : State, s.wk.work.length ≤ params.outMax →
    ∃ t, exec .finish s = .next t ∧
      EndedOk s s.cmdReg s.stPath (if s.cmdReg.toNat % 256 = 1 then [] else s.wk.work) t

/-- R24, R371, R344: in IDLE the engine does nothing; FAIL writes the code that waits (log 5) and ends the command; a `raise` moves
the sequencer to FAIL, which then reports `KIND + 16*SUB` of the error raised. -/
def Obligations.IdleWaitsAndFailReports : Prop :=
  ∀ (s : State) (e : ErrorCause), exec .idle s = .next s ∧
    (∃ t, exec .fail s = .next t ∧ EndedFailed s s.cmdReg s.stPath s.wk.raisedCode t) ∧
    (s.raise e).phase = 27#5 ∧ decodePhase (s.raise e).phase = some .fail ∧
    ∃ t, exec .fail (s.raise e) = .next t ∧
      EndedFailed { s with wk := { s.wk with raisedCode := e.code } } s.cmdReg s.stPath
        (BitVec.ofNat 8 (e.kind.toNat + 16 * e.sub.toNat)) t

/-! ### CONFIG -/

/-- R131: the checks of C_CHECK, in their order. -/
def Obligations.ConfigCheckOrder : Prop :=
  ∀ s : State, ∃ t, exec .cCheck s = .next t ∧
    (params.mkeyMax < s.sMkeyLen.toNat ∨ params.nlegMax < s.sNleg.toNat ∨
        (∃ i < s.sNleg.toNat, params.lkeyMax < (s.slot i).keyLen.toNat) → Raised s 0x39#8 t) ∧
    (s.sMkeyLen.toNat ≤ params.mkeyMax → s.sNleg.toNat ≤ params.nlegMax →
      (∀ i < s.sNleg.toNat, (s.slot i).keyLen.toNat ≤ params.lkeyMax) →
        (s.sCurTagLen.toNat ≠ 6 → Raised s 0x11#8 t) ∧
        (s.sCurTagLen.toNat = 6 → (∃ i < s.sNleg.toNat, (s.slot i).tagLen.toNat ≠ 6) → Raised s 0x21#8 t) ∧
        (s.sCurTagLen.toNat = 6 → (∀ i < s.sNleg.toNat, (s.slot i).tagLen.toNat = 6) → Advanced s 3#5 t))

/-- R132: C_COMMIT copies the staging area into the Config, all of it, and nothing else changes. What it copies when a staged
length or S_NLEG is above its capacity, which C_CHECK excludes (R78, R131), is the model's choice: 00 beyond the spaces and
empty entries beyond NLEG_MAX (log 26). -/
def Obligations.CommitCopiesTheStagingArea : Prop :=
  ∀ s : State, ∃ t, exec .cCommit s = .next t ∧ t = { s with cfg := t.cfg, phase := 26#5 } ∧ SameBytes s t ∧
    t.cfg.valid = true ∧ t.cfg.curTag.val = s.sCurTag.readBytes 0 6 ∧
    t.cfg.mkey = s.sMkey.readBytes 0 s.sMkeyLen.toNat ∧ t.cfg.legacy.length = s.sNleg.toNat ∧
    ∀ i < s.sNleg.toNat, ∃ e, t.cfg.legacy[i]? = some e ∧ e.tag.val = (s.slot i).tag.readBytes 0 6 ∧
      e.key = (s.slot i).key.readBytes 0 (s.slot i).keyLen.toNat

/-- R130, R131: CONFIG on a valid staging area commits it and ends without error and with an empty result. -/
def Obligations.ConfigCommitsAValidConfiguration : Prop :=
  ∀ s : State, s.stBusy = false → s.sMkeyLen.toNat ≤ params.mkeyMax → s.sNleg.toNat ≤ params.nlegMax →
    (∀ i < s.sNleg.toNat, (s.slot i).keyLen.toNat ≤ params.lkeyMax ∧ (s.slot i).tagLen.toNat = 6) →
    s.sCurTagLen.toNat = 6 →
    ∃ t, exec .config s = .next t ∧ EndedOk { s with cfg := t.cfg } 0x00000001#32 .noBranch [] t ∧
      t.cfg.valid = true ∧ t.cfg.curTag.val = s.sCurTag.readBytes 0 6 ∧
      t.cfg.mkey = s.sMkey.readBytes 0 s.sMkeyLen.toNat ∧ t.cfg.legacy.length = s.sNleg.toNat ∧
      ∀ i < s.sNleg.toNat, ∃ e, t.cfg.legacy[i]? = some e ∧ e.tag.val = (s.slot i).tag.readBytes 0 6 ∧
        e.key = (s.slot i).key.readBytes 0 (s.slot i).keyLen.toNat

/-- R131, R133: CONFIG on an invalid staging area reports the first failing check and keeps the Config. -/
def Obligations.FailedConfigKeepsTheConfig : Prop :=
  ∀ s : State, s.stBusy = false →
    (params.mkeyMax < s.sMkeyLen.toNat ∨ params.nlegMax < s.sNleg.toNat ∨
        (∃ i < s.sNleg.toNat, params.lkeyMax < (s.slot i).keyLen.toNat) →
      ∃ t, exec .config s = .next t ∧ EndedFailed s 0x00000001#32 .noBranch 0x39#8 t) ∧
    (s.sMkeyLen.toNat ≤ params.mkeyMax → s.sNleg.toNat ≤ params.nlegMax →
      (∀ i < s.sNleg.toNat, (s.slot i).keyLen.toNat ≤ params.lkeyMax) →
        (s.sCurTagLen.toNat ≠ 6 →
          ∃ t, exec .config s = .next t ∧ EndedFailed s 0x00000001#32 .noBranch 0x11#8 t) ∧
        (s.sCurTagLen.toNat = 6 → (∃ i < s.sNleg.toNat, (s.slot i).tagLen.toNat ≠ 6) →
          ∃ t, exec .config s = .next t ∧ EndedFailed s 0x00000001#32 .noBranch 0x21#8 t))

/-- R25: the lookup finds the key of the highest index with the tag, and nothing when no entry has it. -/
def Obligations.LookupTakesTheHighestIndex : Prop :=
  ∀ (table : List LegacyEntry) (t : Bytes 6),
    (∀ (i : Nat) (e : LegacyEntry), table[i]? = some e → e.tag = t →
      (∀ (j : Nat) (e' : LegacyEntry), i < j → table[j]? = some e' → e'.tag ≠ t) → legLookup table t = some e.key) ∧
    ((∀ e ∈ table, e.tag ≠ t) → legLookup table t = none)

/-! ### The key derivation -/

/-- R154 and the pseudocode of R157: KDF_INIT makes the first PRF call; KDF_DONE takes the running exclusive-or as the key,
and goes to PAD in ENCRYPT and to CBCD otherwise; that it does so for an OPC other than DECRYPT's too is the model's choice
(log 26). -/
def Obligations.KdfStartAndEnd : Prop :=
  ∀ s : State,
    (∃ t, exec .kdfInit s = .next t ∧ SameBytes s t ∧
      t = { s with
        phase := 7#5
        wk := { s.wk with
          kdfU := hmacSha256 s.cfg.mkey (s.wk.ivr.val ++ [0x00#8, 0x00#8, 0x00#8, 0x01#8])
          kdfT := hmacSha256 s.cfg.mkey (s.wk.ivr.val ++ [0x00#8, 0x00#8, 0x00#8, 0x01#8])
          kdfI := 1#14 } }) ∧
    (∃ t, exec .kdfDone s = .next t ∧ SameBytes s t ∧
      t = { s with
        phase := if s.cmdReg.toNat % 256 = 2 then 9#5 else 19#5
        wk := { s.wk with dkey := s.wk.kdfT } })

/-- R155: KDF_ITER, for the counter values 1 to 9999 that a command brings to it (R50); and for 0, where the model's choice is
the same pseudocode (log 24). -/
def Obligations.KdfIterFoldsOnePrfCall : Prop :=
  ∀ s : State, s.wk.kdfI.toNat < 10000 → ∃ t, exec .kdfIter s = .next t ∧ SameBytes s t ∧
    t.wk.kdfU = hmacSha256 s.cfg.mkey s.wk.kdfU.val ∧
    (∀ i < 32, t.wk.kdfT.val.getD i 0#8 = s.wk.kdfT.val.getD i 0#8 ^^^ t.wk.kdfU.val.getD i 0#8) ∧
    t.wk.kdfI.toNat = s.wk.kdfI.toNat + 1 ∧
    t.phase = (if t.wk.kdfI.toNat < 10000 then 7#5 else 8#5) ∧
    t = { s with phase := t.phase, wk := { s.wk with kdfU := t.wk.kdfU, kdfT := t.wk.kdfT, kdfI := t.wk.kdfI } }

/-- R156, R157, R317: the state machine computes the key-derivation function: from KDF_INIT, the engine alone, 10001 steps
leave `KDFN(MKEY, IVR)` in DKEY, and only the KDF registers, DKEY and PHASE differ. The phase after it for an OPC that R157 does
not name is the model's choice (log 26). -/
def Obligations.StateMachineComputesTheKdf : Prop :=
  ∀ s : State, s.agenda = [] → s.phase = 6#5 →
    ∃ t, core.run 10001 s = .next t ∧ t.wk.dkey = params.kdfn s.cfg.mkey s.wk.ivr.val ∧
      t.wk.kdfI.toNat = 10000 ∧ t.phase = (if s.cmdReg.toNat % 256 = 2 then 9#5 else 19#5) ∧
      t = { s with
        phase := t.phase
        wk := { s.wk with kdfU := t.wk.kdfU, kdfT := t.wk.kdfT, kdfI := t.wk.kdfI, dkey := t.wk.dkey } }

/-! ### ENCRYPT -/

/-- R231, R251, R257: the checks of E_CHECK and of D_CHECK in their order, and the one of D_KEYCHK. The master key's length
is not among the entry checks of DECRYPT. -/
def Obligations.EntryChecksInOrder : Prop :=
  ∀ s : State,
    (∃ t, exec .eCheck s = .next t ∧
      (if params.inMax < s.inLen.toNat then Raised s 0x39#8 t
        else if s.cfg.valid = false then Raised s 0x08#8 t
        else if s.cfg.mkey.length < 32 then Raised s 0x02#8 t
        else Advanced s 5#5 t)) ∧
    (∃ t, exec .dCheck s = .next t ∧
      (if params.inMax < s.inLen.toNat then Raised s 0x39#8 t
        else if s.cfg.valid = false then Raised s 0x08#8 t
        else Advanced s 14#5 t)) ∧
    (∃ t, exec .dKeychk s = .next t ∧
      (if s.cfg.mkey.length < 32 then Raised s 0x02#8 t else Advanced s 17#5 t))

/-- R232: RNG puts the sixteen bytes drawn into IVR, whatever they are, and counts one draw. The answer is a parameter of the
step (R21): the one the event of this step names, and no other event's. Where it stands is the model's choice (log 3). -/
def Obligations.RngLoadsTheDraw : Prop :=
  ∀ s : State, ∃ t, exec .rng s = .next t ∧ SameBytes s t ∧
    t = { s with
      phase := 6#5, wk := { s.wk with ivr := s.nextDraw }, draws := s.draws + 1 } ∧
    (∀ iv rest, s.agenda = .engine (some iv) :: rest → t.wk.ivr = iv) ∧
    (∀ w iv rest, s.agenda = .command w (some iv) :: rest → s.nextDraw = iv) ∧
    ∀ p iv, execWith p iv .rng s = .next { t with wk := { t.wk with ivr := iv } }

/-- R170: PAD size-pads the plaintext: 1 to 16 bytes, each holding their number, up to a whole number of blocks. With IN_LEN
above IN_MAX, which E_CHECK excludes (R231, R78), 00 bytes beyond INBUF count as plaintext and WORK may outgrow OUT_MAX: the model's
choice (log 26). -/
def Obligations.PadAppendsItsOwnCount : Prop :=
  ∀ s : State, ∃ t, exec .pad s = .next t ∧ SameBytes s t ∧
    t = { s with phase := 10#5, wk := { s.wk with work := t.wk.work } } ∧
    ∃ n, 1 ≤ n ∧ n ≤ 16 ∧ t.wk.work = s.inbuf.readBytes 0 s.inLen.toNat ++ List.replicate n (BitVec.ofNat 8 n) ∧
      t.wk.work.length = 16 * (s.inLen.toNat / 16 + 1)

/-- R193: CBCE: block `i` of WORK becomes the cipher of itself xor the cipher block before it, the first one with IVR. On a
WORK of no whole number of blocks, which PAD never leaves, the bytes are free (log 23) and everything else is the same. -/
def Obligations.CbcEncryptChains : Prop :=
  ∀ s : State, ∃ t, exec .cbce s = .next t ∧ SameBytes s t ∧
    t = { s with phase := 11#5, wk := { s.wk with work := t.wk.work } } ∧
    t.wk.work.length = s.wk.work.length ∧
    (s.wk.work.length % 16 = 0 → ∀ i, 16 * i < s.wk.work.length →
      (t.wk.work.drop (16 * i)).take 16 =
        (aesEnc s.wk.dkey.val (Bytes.ofList 16 (xorBytes ((s.wk.work.drop (16 * i)).take 16)
          (if i = 0 then s.wk.ivr.val else (t.wk.work.drop (16 * (i - 1))).take 16)))).val)

/-- R211, R212: the phase B64E: WORK becomes the base64 text of IVR and WORK, of `4*ceil((16 + WORK_LEN)/3)` characters. Each
group of up to three bytes, most significant first, gives its four six-bit fields as characters of the alphabet, and `=` for
each byte that is missing. That WORK may outgrow OUT_MAX here is the model's choice (log 26). -/
def Obligations.Base64EncodesTheIvAndTheCipher : Prop :=
  ∀ s : State, ∃ t, exec .b64e s = .next t ∧ SameBytes s t ∧
    t = { s with phase := 12#5, wk := { s.wk with work := t.wk.work } } ∧
    t.wk.work = b64Encode (s.wk.ivr.val ++ s.wk.work) ∧
    t.wk.work.length = 4 * ((16 + s.wk.work.length + 2) / 3) ∧
    (∀ c ∈ t.wk.work, c = 0x3d#8 ∨ (b64Val c).isSome = true) ∧
    ∀ (k g : Nat) (x : ByteString), x = s.wk.ivr.val ++ s.wk.work → 3 * k < x.length →
      g = (x.getD (3 * k) 0#8).toNat * 65536 + (x.getD (3 * k + 1) 0#8).toNat * 256 + (x.getD (3 * k + 2) 0#8).toNat →
      IsBase64Char (g / 262144) (t.wk.work.getD (4 * k) 0#8) ∧
      IsBase64Char (g / 4096 % 64) (t.wk.work.getD (4 * k + 1) 0#8) ∧
      (if 3 * k + 1 < x.length then IsBase64Char (g / 64 % 64) (t.wk.work.getD (4 * k + 2) 0#8)
        else t.wk.work.getD (4 * k + 2) 0#8 = 0x3d#8) ∧
      (if 3 * k + 2 < x.length then IsBase64Char (g % 64) (t.wk.work.getD (4 * k + 3) 0#8)
        else t.wk.work.getD (4 * k + 3) 0#8 = 0x3d#8)

/-- R216: TAGPUT prefixes the override when V is 1, else the current tag. That WORK may outgrow OUT_MAX here is the model's
choice (log 26). -/
def Obligations.TagputPrefixesTheTag : Prop :=
  ∀ s : State, ∃ t, exec .tagput s = .next t ∧ SameBytes s t ∧
    t = { s with
      phase := 26#5
      wk := { s.wk with
        work := (if s.cmdReg.getLsbD 8 then s.vtag.readBytes 0 6 else s.cfg.curTag.val) ++ s.wk.work } }

/-- R230, R233: ENCRYPT and ENCRYPT.V with a committed Config, a master key of at least 32 bytes and an input that fits
deliver `tag || B64E(IV || CBC_ENC(KDF(MKEY, IV), IV, SPAD(P)))` for the drawn IV, whatever it is; nothing else changes but
the result, STATUS and the model's record of the draw (log 3). -/
def Obligations.EncryptDeliversTheCiphertext : Prop :=
  ∀ (s : State) (i : Instr) (w : Word) (tag : ByteString), EncryptForm s i w tag → s.stBusy = false →
    s.inLen.toNat ≤ params.inMax → s.cfg.valid = true → 32 ≤ s.cfg.mkey.length →
    ∃ t, exec i s = .next t ∧
      EndedOk { s with draws := s.draws + 1 } w .noBranch
        (tag ++ b64Encode (s.nextDraw.val ++
          cbcEnc params.bc (params.kdfn s.cfg.mkey s.nextDraw.val).val s.nextDraw
            (spad (s.inbuf.readBytes 0 s.inLen.toNat)))) t

/-- R231, R341 for the whole command: the first failing entry check of ENCRYPT and ENCRYPT.V is reported, and no draw is
consumed. -/
def Obligations.EncryptEntryErrors : Prop :=
  ∀ (s : State) (i : Instr) (w : Word) (tag : ByteString), EncryptForm s i w tag → s.stBusy = false →
    (params.inMax < s.inLen.toNat → ∃ t, exec i s = .next t ∧ EndedFailed s w .noBranch 0x39#8 t) ∧
    (s.inLen.toNat ≤ params.inMax → s.cfg.valid = false →
      ∃ t, exec i s = .next t ∧ EndedFailed s w .noBranch 0x08#8 t) ∧
    (s.inLen.toNat ≤ params.inMax → s.cfg.valid = true → s.cfg.mkey.length < 32 →
      ∃ t, exec i s = .next t ∧ EndedFailed s w .noBranch 0x02#8 t)

/-- R234, R235: the length of a ciphertext string depends on the number of whole blocks of the plaintext alone, and two
strings of one plaintext under one Config are equal exactly when their IVs are. -/
def Obligations.CiphertextLengthAndIv : Prop :=
  ∀ (mkey : ByteString) (tag : Bytes 6) (x : ByteString) (iv iv' : Bytes 16),
    (encText params mkey tag x iv).length = 6 + 4 * ((32 + 16 * (x.length / 16) + 2) / 3) ∧
    (encText params mkey tag x iv = encText params mkey tag x iv' ↔ iv = iv')

/-! ### DECRYPT, the selector and the current path -/

/-- R217, R259: TAGSPLIT takes the leading 6 bytes of the input into TAGR, IVSPLIT the leading 16 bytes of WORK into IVR;
each refuses a string that is shorter. -/
def Obligations.TagAndIvAreSplitOff : Prop :=
  ∀ s : State,
    (∃ t, exec .tagsplit s = .next t ∧
      (s.inLen.toNat < 6 → Raised s 0x13#8 t) ∧
      (6 ≤ s.inLen.toNat → SameBytes s t ∧ t = { s with phase := 15#5, wk := { s.wk with tagr := t.wk.tagr } } ∧
        t.wk.tagr.val = s.inbuf.readBytes 0 6)) ∧
    (∃ t, exec .ivsplit s = .next t ∧
      (s.wk.work.length < 16 → Raised s 0x33#8 t) ∧
      (16 ≤ s.wk.work.length → SameBytes s t ∧
        t = { s with phase := 6#5, wk := { s.wk with ivr := t.wk.ivr, work := s.wk.work.drop 16 } } ∧
        t.wk.ivr.val = s.wk.work.take 16))

/-- R253, R254: SELECT: the expected tag is the override when V is 1, else the current tag; the three targets in their
order, PATH telling the branch. An entry of the table under another tag than ZeroVe plays no part. -/
def Obligations.SelectDispatches : Prop :=
  ∀ s : State, ∃ t, exec .select s = .next t ∧ SameBytes s t ∧
    t.wk.expected.val = (if s.cmdReg.getLsbD 8 then s.vtag.readBytes 0 6 else s.cfg.curTag.val) ∧
    t = { s with
      stPath := t.stPath, phase := t.phase
      wk := { s.wk with expected := t.wk.expected, raisedCode := t.wk.raisedCode } } ∧
    (s.wk.tagr = t.wk.expected → t.stPath = .current ∧ t.phase = 16#5 ∧ t.wk.raisedCode = s.wk.raisedCode) ∧
    (s.wk.tagr ≠ t.wk.expected →
      (∃ e ∈ s.cfg.legacy, e.tag.val = [0x5a#8, 0x65#8, 0x72#8, 0x6f#8, 0x56#8, 0x65#8]) →
        t.stPath = .legacy ∧ t.phase = 21#5 ∧ t.wk.raisedCode = s.wk.raisedCode) ∧
    (s.wk.tagr ≠ t.wk.expected →
      (∀ e ∈ s.cfg.legacy, e.tag.val ≠ [0x5a#8, 0x65#8, 0x72#8, 0x6f#8, 0x56#8, 0x65#8]) →
        t.stPath = s.stPath ∧ t.phase = 27#5 ∧ t.wk.raisedCode = 0x05#8)

/-- R213, R258, R283: the phases B64D and L_B64D decode the payload `INBUF[6..IN_LEN)` and the whole string
`INBUF[0..IN_LEN)` (that the payload of an IN_LEN below 6 is empty, log 25, and that bytes beyond INBUF read 00, log 26, are the
model's choices): four characters of the alphabet give three bytes, most significant first, a last `=` or `==` one or two bytes
less. A text of a length that is no multiple of 4, or with a character outside the alphabet that is not one of the last two, is
refused. -/
def Obligations.Base64PhasesDecode : Prop :=
  ∀ (s : State) (i : Instr) (text : ByteString) (target : BitVec 5),
    (i = .b64d ∧ text = s.inbuf.readBytes 6 (s.inLen.toNat - 6) ∧ target = 18#5) ∨
      (i = .lB64d ∧ text = s.inbuf.readBytes 0 s.inLen.toNat ∧ target = 23#5) →
    ∃ t, exec i s = .next t ∧
      (∀ v, b64Decode params text = .ok v →
        t = { s with phase := target, wk := { s.wk with work := v } } ∧ SameBytes s t ∧
        v.length + (if text.getLast? = some 0x3d#8 then (if text.dropLast.getLast? = some 0x3d#8 then 2 else 1) else 0) =
          3 * (text.length / 4) ∧
        ∀ k, 4 * k < text.length → ∃ d0 d1 d2 d3,
          IsBase64Digit d0 (text.getD (4 * k) 0#8) ∧ IsBase64Digit d1 (text.getD (4 * k + 1) 0#8) ∧
          IsBase64Digit d2 (text.getD (4 * k + 2) 0#8) ∧ IsBase64Digit d3 (text.getD (4 * k + 3) 0#8) ∧
          ∀ j < 3, 3 * k + j < v.length →
            (v.getD (3 * k + j) 0#8).toNat =
              (((d0 * 64 + d1) * 64 + d2) * 64 + d3) / (if j = 0 then 65536 else if j = 1 then 256 else 1) % 256) ∧
      ((∀ v, b64Decode params text ≠ .ok v) → Raised s 0x23#8 t) ∧
      (text.length % 4 ≠ 0 → Raised s 0x23#8 t) ∧
      (∀ k, k + 2 < text.length → b64Val (text.getD k 0#8) = none → Raised s 0x23#8 t)

/-- R194, R195: CBCD: a length that is no multiple of 16 is refused; otherwise block `i` of WORK becomes its inverse cipher
xor the cipher block before it, the first one with IVR. -/
def Obligations.CbcDecryptUnchains : Prop :=
  ∀ s : State, ∃ t, exec .cbcd s = .next t ∧
    (s.wk.work.length % 16 ≠ 0 → Raised s 0x16#8 t) ∧
    (s.wk.work.length % 16 = 0 → SameBytes s t ∧
      t = { s with phase := 20#5, wk := { s.wk with work := t.wk.work } } ∧
      t.wk.work.length = s.wk.work.length ∧
      ∀ i, 16 * i < s.wk.work.length →
        (t.wk.work.drop (16 * i)).take 16 =
          xorBytes (aesDec s.wk.dkey.val (Bytes.ofList 16 ((s.wk.work.drop (16 * i)).take 16))).val
            (if i = 0 then s.wk.ivr.val else (s.wk.work.drop (16 * (i - 1))).take 16))

/-- R172, R174, R287, R288: UNPAD looks at the last byte alone: an empty buffer is UNPAD_EMPTY, a count of 0 or above the
length is PaddingInvalid, and any other count is stripped. L_TRUNC keeps the first ELEN bytes of the prefix and does not
look at the rest; a length beyond the prefix is ELEN_RANGE. -/
def Obligations.PaddingIsStripped : Prop :=
  ∀ s : State,
    (∃ t, exec .unpad s = .next t ∧
      (s.wk.work = [] → Raised s 0x26#8 t) ∧
      ∀ init n, s.wk.work = init ++ [n] →
        (if n.toNat = 0 ∨ init.length + 1 < n.toNat then Raised s 0x04#8 t
          else SameBytes s t ∧
            t = { s with phase := 26#5, wk := { s.wk with work := s.wk.work.take (s.wk.work.length - n.toNat) } })) ∧
    (s.wk.plen ≤ s.wk.work.length → ∃ t, exec .lTrunc s = .next t ∧
      (s.wk.plen < s.wk.elen → Raised s 0x46#8 t) ∧
      (s.wk.elen ≤ s.wk.plen → SameBytes s t ∧
        t = { s with phase := 26#5, wk := { s.wk with work := s.wk.work.take s.wk.elen } }))

/-- R250 step 3 for DECRYPT and DECRYPT.V: the string carries the expected tag, the payload decodes to an IV and a positive
whole number of blocks. The decrypted buffer's last byte decides: PaddingInvalid, or the plaintext. PATH is 1. -/
def Obligations.DecryptTakesTheCurrentPath : Prop :=
  ∀ (s : State) (i : Instr) (w : Word) (tag buf : ByteString), DecryptForm s i w tag → s.stBusy = false →
    s.inLen.toNat ≤ params.inMax → s.cfg.valid = true → 6 ≤ s.inLen.toNat → s.inbuf.readBytes 0 6 = tag →
    32 ≤ s.cfg.mkey.length → b64Decode params (s.inbuf.readBytes 6 (s.inLen.toNat - 6)) = .ok buf →
    32 ≤ buf.length → buf.length % 16 = 0 →
    ∃ t dec, exec i s = .next t ∧
      cbcDec params.bc (params.kdfn s.cfg.mkey (buf.take 16)).val (Bytes.ofList 16 buf) (buf.drop 16) = .ok dec ∧
      dec.length = buf.length - 16 ∧
      (if (dec.getLastD 0#8).toNat = 0 ∨ dec.length < (dec.getLastD 0#8).toNat then EndedFailed s w .current 0x04#8 t
        else EndedOk s w .current (dec.take (dec.length - (dec.getLastD 0#8).toNat)) t)

/-- R280 for DECRYPT and DECRYPT.V: the string carries another tag than the expected one, a ZeroVe key of at most 32 bytes is
configured, the whole string decodes, and the recorded length does not exceed the block-aligned prefix. The result is the
first `eLen` bytes of the prefix, decrypted under the fitted key and the zero IV. PATH is 2. The master key's length does
not matter. -/
def Obligations.DecryptTakesTheLegacyPath : Prop :=
  ∀ (s : State) (i : Instr) (w : Word) (tag buf lk : ByteString), DecryptForm s i w tag → s.stBusy = false →
    s.inLen.toNat ≤ params.inMax → s.cfg.valid = true → 6 ≤ s.inLen.toNat → s.inbuf.readBytes 0 6 ≠ tag →
    legLookup s.cfg.legacy Config.reservedTag = some lk → lk.length ≤ 32 →
    b64Decode params (s.inbuf.readBytes 0 s.inLen.toNat) = .ok buf →
    beNat (buf.drop (buf.length / 16 * 16)) ≤ buf.length / 16 * 16 →
    ∃ t dec, exec i s = .next t ∧
      cbcDec params.bc (lk ++ zeros ((if lk.length ≤ 16 then 16 else if lk.length ≤ 24 then 24 else 32) - lk.length))
        ⟨List.replicate 16 0#8, by simp⟩ (buf.take (buf.length / 16 * 16)) = .ok dec ∧
      EndedOk s w .legacy (dec.take (beNat (buf.drop (buf.length / 16 * 16)))) t

/-- R341 for the errors of DECRYPT and DECRYPT.V that are found before any decoding, each under the condition that those
before it do not hold: BAD_LEN, NotConfigured, TAG_SHORT, then KeyTooShort on the current path (PATH 1),
UnsupportedVersion without a ZeroVe entry (PATH 0), LEGACY_KEY_TOO_LONG on the legacy path (PATH 2). -/
def Obligations.DecryptErrorsBeforeDecoding : Prop :=
  ∀ (s : State) (i : Instr) (w : Word) (tag : ByteString), DecryptForm s i w tag → s.stBusy = false →
    ∃ t, exec i s = .next t ∧
    (params.inMax < s.inLen.toNat → EndedFailed s w .noBranch 0x39#8 t) ∧
    (s.inLen.toNat ≤ params.inMax → s.cfg.valid = false → EndedFailed s w .noBranch 0x08#8 t) ∧
    (s.inLen.toNat ≤ params.inMax → s.cfg.valid = true → s.inLen.toNat < 6 → EndedFailed s w .noBranch 0x13#8 t) ∧
    (s.inLen.toNat ≤ params.inMax → s.cfg.valid = true → 6 ≤ s.inLen.toNat → s.inbuf.readBytes 0 6 = tag →
      s.cfg.mkey.length < 32 → EndedFailed s w .current 0x02#8 t) ∧
    (s.inLen.toNat ≤ params.inMax → s.cfg.valid = true → 6 ≤ s.inLen.toNat → s.inbuf.readBytes 0 6 ≠ tag →
      legLookup s.cfg.legacy Config.reservedTag = none → EndedFailed s w .noBranch 0x05#8 t) ∧
    (∀ lk, s.inLen.toNat ≤ params.inMax → s.cfg.valid = true → 6 ≤ s.inLen.toNat → s.inbuf.readBytes 0 6 ≠ tag →
      legLookup s.cfg.legacy Config.reservedTag = some lk → 32 < lk.length → EndedFailed s w .legacy 0x36#8 t)

/-! ### The legacy path -/

/-- R281, R282: L_KEYFIT zero-pads the key under ZeroVe to the smallest of 16, 24 and 32 bytes that holds it, and refuses a
longer one. -/
def Obligations.LegacyKeyIsFitted : Prop :=
  ∀ (s : State) (lk : ByteString), legLookup s.cfg.legacy Config.reservedTag = some lk →
    ∃ t, exec .lKeyfit s = .next t ∧
      (32 < lk.length → Raised s 0x36#8 t) ∧
      (lk.length ≤ 32 → SameBytes s t ∧
        t = { s with
          phase := 22#5
          wk := { s.wk with
            lkfit := lk ++ List.replicate
              ((if lk.length ≤ 16 then 16 else if lk.length ≤ 24 then 24 else 32) - lk.length) 0#8 } })

/-- R284, R285: L_SPLIT: PLEN is the length of the block-aligned prefix, which is what stays in WORK; ELEN is the exact
big-endian value of the 0 to 15 bytes after it, below 2^120. -/
def Obligations.LegacySplitReadsTheTrailer : Prop :=
  ∀ s : State, ∃ t, exec .lSplit s = .next t ∧ SameBytes s t ∧
    t = { s with phase := 24#5, wk := { s.wk with plen := t.wk.plen, elen := t.wk.elen, work := t.wk.work } } ∧
    t.wk.plen = s.wk.work.length / 16 * 16 ∧ t.wk.work = s.wk.work.take t.wk.plen ∧
    t.wk.elen = (s.wk.work.drop t.wk.plen).foldl (fun acc b => acc * 256 + b.toNat) 0 ∧ t.wk.elen < 2 ^ 120

/-- R286: L_CBCD: the prefix decrypts block by block under LKFIT with the zero IV; nothing is raised on a whole number of
blocks, and L_SPLIT leaves no other. Under a LKFIT of another length than 16, 24 or 32 bytes, which L_KEYFIT never leaves, the
cipher's value is free (log 9). -/
def Obligations.LegacyCbcUsesTheZeroIv : Prop :=
  ∀ s : State, s.wk.plen % 16 = 0 → s.wk.plen ≤ s.wk.work.length →
    ∃ t, exec .lCbcd s = .next t ∧ SameBytes s t ∧
      t = { s with phase := 25#5, wk := { s.wk with ivr := t.wk.ivr, work := t.wk.work } } ∧
      t.wk.ivr.val = List.replicate 16 0#8 ∧ t.wk.work.length = s.wk.plen ∧
      ∀ i, 16 * i < s.wk.plen →
        (t.wk.work.drop (16 * i)).take 16 =
          xorBytes (aesDec s.wk.lkfit (Bytes.ofList 16 ((s.wk.work.drop (16 * i)).take 16))).val
            (if i = 0 then List.replicate 16 0#8 else (s.wk.work.drop (16 * (i - 1))).take 16)

/-! ### The codecs and the cipher -/

/-- R175, R176, R177: the padding codecs: SUNPAD undoes SPAD on every string; ZTRUNC with the recorded length undoes ZPAD
under either setting of its switch, and the padded length is a whole number of blocks. -/
def Obligations.PaddingRoundTrips : Prop :=
  ∀ (p : Config.Params) (x : ByteString),
    sunpad (spad x) = .ok x ∧ ztrunc (zpad p x) x.length = .ok x ∧ (zpad p x).length % 16 = 0

/-- R215: decoding undoes encoding on every string, under every setting of the two switches. -/
def Obligations.Base64RoundTrip : Prop := ∀ (p : Config.Params) (x : ByteString), b64Decode p (b64Encode x) = .ok x

/-- R197: for every block cipher with the two inverse laws, every valid key, every IV and every string of whole blocks,
CBC_DEC undoes CBC_ENC. -/
def Obligations.CbcRoundTrip : Prop :=
  ∀ (bc : Config.BlockCipher) (k : ByteString) (iv : Bytes 16) (x : ByteString),
    bc.Lawful → Config.ValidKey k → x.length % 16 = 0 → cbcDec bc k iv (cbcEnc bc k iv x) = .ok x

/-- R10, R21, R191: the machine is the machine over every choice of parameters, `stepWith`, at the defaults of R10's table and
at the answer its step is given; the defaults meet every constraint of that table (among them, AES has the two inverse laws)
and their key derivation is the one the phases compute. That the machine handed to the host runs the defaults is the model's
choice (log 6). -/
def Obligations.DefaultParametersAreAdmissible : Prop :=
  params.Ok ∧ KdfIsPbkdf2 params ∧
  params.inMax = 65535 ∧ params.outMax = 87410 ∧ params.mkeyMax = 256 ∧ params.lkeyMax = 256 ∧ params.nlegMax = 8 ∧
  params.stagMax = 255 ∧ params.elenBits = 120 ∧ params.neng = 1 ∧
  params.b64IgnoreCrlf = false ∧ params.b64StrictTrailing = false ∧ params.zpadAlignedAddsBlock = false ∧
  (∀ i s, exec i s = execWith params s.nextDraw i s) ∧ (∀ s, step s = stepWith params s.nextDraw s) ∧
  State.reset = State.resetWith params.nlegMax

/-- R236 as a function, for every admissible instantiation: DECRYPT of ENCRYPT's string under the same tag and master key
gives the plaintext on the current path, for every draw, whatever the legacy table holds. -/
def Obligations.DecryptUndoesEncrypt : Prop :=
  ∀ (p : Config.Params) (cfg : CommittedConfig) (tag : Bytes 6) (x : ByteString) (iv : Bytes 16),
    p.Ok → 32 ≤ cfg.mkey.length →
    decryptText p cfg (encText p cfg.mkey tag x iv) tag = (.current, .ok x)

/-- R236 in the machine: ENCRYPT (or ENCRYPT.V), then the host puts the result back as input and issues DECRYPT (or
DECRYPT.V with the same VTAG): the plaintext, its length, PATH 1 and no error, for every draw. -/
def Obligations.MachineRoundTrip : Prop :=
  ∀ (s : State) (v : Bool), s.stBusy = false → s.cfg.valid = true → 32 ≤ s.cfg.mkey.length →
    6 + 4 * ((32 + 16 * (s.inLen.toNat / 16) + 2) / 3) ≤ params.inMax →
    ∃ t u, exec (if v then .encryptV else .encrypt) s = .next t ∧ t.errCode = 0#8 ∧
      exec (if v then .decryptV else .decrypt) { t with inbuf := t.outbuf, inLen := t.outLen } = .next u ∧
      u.errCode = 0#8 ∧ u.stErr = false ∧ u.stDone = true ∧ u.stPath = .current ∧ u.outLen = s.inLen ∧
      ∀ k < s.inLen.toNat, u.outbuf.read k = s.inbuf.read k

/-! ### Rules of the whole machine -/

/-- R23: a step changes the Config only in the phase C_COMMIT, which goes on to FINISH with a valid Config, by a whole
CONFIG command that succeeds, or by reset. -/
def Obligations.OnlyConfigAndResetChangeTheConfig : Prop :=
  ∀ s t : State, step s = .next t → t.cfg ≠ s.cfg →
    (EngineTurn s ∧ s.phase = 3#5 ∧ t.phase = 26#5 ∧ t.cfg.valid = true) ∨
      (CommandTurn s 0x00000001#32 ∧ t.stErr = false ∧ t.cfg.valid = true) ∨ s.agenda.head? = some .reset

/-- R61, R344: no phase of the engine and no whole command writes INBUF, VTAG, IN_LEN or the staging area; only the host's
accesses and reset do. -/
def Obligations.CommandsKeepTheirOperands : Prop :=
  ∀ s t : State, step s = .next t → EngineTurn s ∨ (∃ w a, s.agenda.head? = some (.command w a)) →
    t.inLen = s.inLen ∧ t.sCurTagLen = s.sCurTagLen ∧ t.sMkeyLen = s.sMkeyLen ∧ t.sNleg = s.sNleg ∧
    t.staged = s.staged ∧ SameBytesButOut s t

/-- R45: a draw is made only in the phase RNG and by a whole ENCRYPT or ENCRYPT.V that passes its entry checks, one at a
time; and what the random source would answer makes no difference to any other instruction. The counter of draws is the
model's (log 3). -/
def Obligations.DrawsOnlyForEncrypt : Prop :=
  (∀ s t : State, step s = .next t → t.draws ≠ s.draws →
    t.draws = s.draws + 1 ∧
    ((EngineTurn s ∧ s.phase = 5#5) ∨
      ((CommandTurn s 0x00000002#32 ∨ CommandTurn s 0x00000102#32) ∧
        s.inLen.toNat ≤ params.inMax ∧ s.cfg.valid = true ∧ 32 ≤ s.cfg.mkey.length))) ∧
  ∀ (p : Config.Params) (iv iv' : Bytes 16) (i : Instr) (s : State), i ≠ .rng → i ≠ .encrypt → i ≠ .encryptV →
    execWith p iv i s = execWith p iv' i s

/-- Every step keeps the buffer spaces in canonical form and inside their sizes (R31, R60). -/
def Obligations.StepKeepsSpacesCanonical : Prop :=
  ∀ s t : State, SpacesCanonical s → step s = .next t → SpacesCanonical t

/-- Every step keeps the sequencer and the flags in agreement (R24, R28, R96, R332). -/
def Obligations.StepKeepsSequencerCoherent : Prop :=
  ∀ s t : State, SequencerCoherent s → step s = .next t → SequencerCoherent t

/-- R345: 00 at and beyond OUT_LEN, and OUT_LEN at most OUT_MAX, is an invariant; with it, no result outgrows OUTBUF. -/
def Obligations.StepKeepsOutputBounded : Prop :=
  ∀ s t : State, SequencerCoherent s → OutputBounded s → step s = .next t → OutputBounded t

/-- R231, R257, R333, R156: `KeyGuarded` is kept, so no step reaches a phase that uses the master key with a short key or without a Config, and KDF_I
stays in its range. -/
def Obligations.StepKeepsKeyGuarded : Prop := ∀ s t : State, KeyGuarded s → step s = .next t → KeyGuarded t

/-- The four invariants hold after reset (R370). -/
def Obligations.ResetMeetsTheInvariants : Prop :=
  SpacesCanonical State.reset ∧ SequencerCoherent State.reset ∧ OutputBounded State.reset ∧ KeyGuarded State.reset

/-- R19, R347: every command ends. A coherent machine left to its engine is idle after at most 10012 phases, and if a command
was running it is then done. -/
def Obligations.EveryCommandEnds : Prop :=
  ∀ s : State, SequencerCoherent s → KeyGuarded s → s.agenda = [] →
    ∃ t, core.run 10012 s = .next t ∧ t.phase = 0#5 ∧ t.stBusy = false ∧ (s.stBusy = true → t.stDone = true)

/-- R19, R72: the two ways to model a command agree. For every word written to CMD of an idle machine, running the phases to
the end gives the state that the command as one transition gives, but for the working registers (logs 1, 17). It holds of the
machine under every choice of the capacities, the block cipher, the pseudo-random function and the switches (R10, R21), as
long as the key derivation is the one the phases compute (R153; log 7). -/
def Obligations.PhasesImplementTheCommands : Prop :=
  (∀ (s : State) (w : Word), s.stBusy = false → s.agenda = [] →
    ∃ t u, core.run 10011 (hostWriteReg params s 0 w) = .next t ∧
      step { s with agenda := [.command w none] } = .next u ∧ t.withoutWork = u.withoutWork) ∧
  ∀ (p : Config.Params) (s : State) (w : Word), KdfIsPbkdf2 p → s.stBusy = false → s.agenda = [] →
    ∃ t u, (coreWith p).run 10011 (hostWriteReg p s 0 w) = .next t ∧
      stepWith p s.nextDraw { s with agenda := [.command w none] } = .next u ∧ t.withoutWork = u.withoutWork
end

