-- ==== Sys2Proof/Laws/Bytes.lean ====
section
/-!
SUPPORT. Byte strings: putting a string into a register, exclusive-or, and cutting into blocks and joining them again.
-/

namespace Sys2Proof

@[simp] theorem zeros_length (n : Nat) : (zeros n).length = n := by simp [zeros]

theorem Bytes.ofList_val_of_le (n : Nat) (s : ByteString) (h : n ≤ s.length) : (Bytes.ofList n s).val = s.take n := by
  simp [Bytes.ofList, List.take_append, Nat.sub_eq_zero_of_le h]

theorem Bytes.ofList_val (n : Nat) (s : ByteString) (h : s.length = n) : (Bytes.ofList n s).val = s := by
  rw [Bytes.ofList_val_of_le n s h.ge, List.take_of_length_le h.le]

@[simp] theorem Bytes.ofList_self {n : Nat} (b : Bytes n) : Bytes.ofList n b.val = b :=
  Subtype.ext (Bytes.ofList_val n b.val b.property)

namespace Machine

/-! ### Exclusive-or -/

@[simp] theorem xorBytes_length (a b : ByteString) : (xorBytes a b).length = min a.length b.length := by simp [xorBytes]

theorem xorBytes_cancel (a b : ByteString) (h : a.length = b.length) : xorBytes (xorBytes a b) b = a := by
  apply List.ext_getElem
  · simp [h]
  · intro i _ _
    simp [xorBytes]

theorem xorBytes_getD (a b : ByteString) (h : a.length = b.length) (i : Nat) :
    (xorBytes a b).getD i 0#8 = a.getD i 0#8 ^^^ b.getD i 0#8 := by
  by_cases hi : i < a.length
  · have hb : i < b.length := h ▸ hi
    simp [xorBytes, hi, hb]
  · have hb : b.length ≤ i := by omega
    simp [hb, not_lt.mp hi]

theorem xorReg_cancel {n : Nat} (a b : Bytes n) : xorReg (xorReg a b) b = a :=
  Subtype.ext (xorBytes_cancel a.val b.val (a.property.trans b.property.symm))

/-! ### Pieces and blocks -/

@[simp] theorem pieces_length (n : Nat) (s : ByteString) : (pieces n s).length = s.length / n := by simp [pieces]

@[simp] theorem blocks_length (s : ByteString) : (blocks s).length = s.length / 16 := by simp [blocks]

theorem pieces_append (n : Nat) (a s : ByteString) (hn : 0 < n) (h : a.length = n) : pieces n (a ++ s) = a :: pieces n s := by
  have hl : (a ++ s).length / n = s.length / n + 1 := by
    rw [List.length_append, h, Nat.add_comm, Nat.add_div_right _ hn]
  rw [pieces, hl, List.range_succ_eq_map, List.map_cons, List.map_map]
  congr 1
  · simp [← h]
  · rw [pieces]
    refine List.map_congr_left fun i _ => ?_
    simp only [Function.comp, Nat.mul_succ]
    rw [Nat.add_comm, ← List.drop_drop, ← h, List.drop_left]

@[simp] theorem joinBlocks_nil : joinBlocks [] = [] := rfl

@[simp] theorem joinBlocks_cons (x : Bytes 16) (xs : List (Bytes 16)) : joinBlocks (x :: xs) = x.val ++ joinBlocks xs := rfl

@[simp] theorem joinBlocks_length (xs : List (Bytes 16)) : (joinBlocks xs).length = 16 * xs.length := by
  induction xs with
  | nil => rfl
  | cons x xs ih => rw [joinBlocks_cons, List.length_append, ih, x.property, List.length_cons]; omega

theorem blocks_append (x : Bytes 16) (s : ByteString) : blocks (x.val ++ s) = x :: blocks s := by
  rw [blocks, pieces_append 16 x.val s (by omega) x.property, List.map_cons, Bytes.ofList_self]
  rfl

/-- Cutting what was joined. -/
theorem blocks_joinBlocks (xs : List (Bytes 16)) : blocks (joinBlocks xs) = xs := by
  induction xs with
  | nil => rfl
  | cons x xs ih => rw [joinBlocks_cons, blocks_append, ih]

/-- Joining what was cut: nothing is lost from a whole number of blocks. -/
theorem joinBlocks_blocks (s : ByteString) (h : s.length % 16 = 0) : joinBlocks (blocks s) = s := by
  generalize hm : s.length / 16 = m
  induction m generalizing s with
  | zero =>
    have : s = [] := List.eq_nil_of_length_eq_zero (by omega)
    rw [this]; rfl
  | succ m ih =>
    have ht : (s.take 16).length = 16 := by rw [List.length_take]; omega
    have hd : (s.drop 16).length = s.length - 16 := List.length_drop
    rw [← List.take_append_drop 16 s]
    rw [show s.take 16 = (⟨s.take 16, ht⟩ : Bytes 16).val from rfl, blocks_append, joinBlocks_cons,
      ih (s.drop 16) (by omega) (by omega)]

/-! ### Chaining -/

@[simp] theorem cbcEncBlocks_length (bc : Config.BlockCipher) (k : ByteString) (iv : Bytes 16) (xs : List (Bytes 16)) :
    (cbcEncBlocks bc k iv xs).length = xs.length := by
  induction xs generalizing iv with
  | nil => rfl
  | cons x xs ih => simp [cbcEncBlocks, ih]

@[simp] theorem cbcDecBlocks_length (bc : Config.BlockCipher) (k : ByteString) (iv : Bytes 16) (xs : List (Bytes 16)) :
    (cbcDecBlocks bc k iv xs).length = xs.length := by
  induction xs generalizing iv with
  | nil => rfl
  | cons x xs ih => simp [cbcDecBlocks, ih]

/-- CBC_ENC of a whole number of blocks, the only strings R193 defines it for. -/
theorem cbcEnc_of_aligned (bc : Config.BlockCipher) (k : ByteString) (iv : Bytes 16) (x : ByteString)
    (h : x.length % 16 = 0) : cbcEnc bc k iv x = joinBlocks (cbcEncBlocks bc k iv (blocks x)) := by rw [cbcEnc, if_pos h]

/-- CBC_ENC never changes the length. -/
@[simp] theorem cbcEnc_length (bc : Config.BlockCipher) (k : ByteString) (iv : Bytes 16) (x : ByteString) :
    (cbcEnc bc k iv x).length = x.length := by
  unfold cbcEnc
  split
  · rw [joinBlocks_length, cbcEncBlocks_length, blocks_length]; omega
  · exact (Bytes.ofList x.length _).property

/-- Everything CBC_DEC can answer: the alignment error, or a string of the same length. -/
theorem cbcDec_cases (bc : Config.BlockCipher) (k : ByteString) (iv : Bytes 16) (c : ByteString) :
    (c.length % 16 ≠ 0 ∧ cbcDec bc k iv c = .error .cbcNotAligned) ∨
    (c.length % 16 = 0 ∧ ∃ v, cbcDec bc k iv c = .ok v ∧ v.length = c.length) := by
  unfold cbcDec
  split
  · exact .inl ⟨‹_›, rfl⟩
  · refine .inr ⟨by omega, _, rfl, ?_⟩
    simp
    omega

/-! ### Size-padding -/

theorem spad_length (s : ByteString) : (spad s).length = 16 * (s.length / 16 + 1) := by
  simp [spad, spadCount]
  omega

/-- Everything SUNPAD can answer. -/
theorem sunpad_cases (b : ByteString) :
    (b = [] ∧ sunpad b = .error .unpadEmpty) ∨
    (∃ n, b.getLast? = some n ∧ (n = 0#8 ∨ b.length < n.toNat) ∧ sunpad b = .error .paddingInvalid) ∨
    (∃ n, b.getLast? = some n ∧ ¬ (n = 0#8 ∨ b.length < n.toNat) ∧ sunpad b = .ok (b.take (b.length - n.toNat))) := by
  unfold sunpad
  split
  · exact .inl ⟨List.getLast?_eq_none_iff.mp ‹_›, rfl⟩
  · split
    · exact .inr (.inl ⟨_, ‹_›, ‹_›, rfl⟩)
    · exact .inr (.inr ⟨_, ‹_›, ‹_›, rfl⟩)

end Machine

end Sys2Proof
end

