-- ==== Sys2Proof/Laws/Codecs.lean ====
section
/-!
SUPPORT. Everything the codecs and the entry checks can answer, one lemma each.
-/

namespace Sys2Proof.Machine

/-- The only error of the decoder is B64_INVALID (R213). -/
theorem b64Decode_cases (p : Config.Params) (s : ByteString) :
    (∃ v, b64Decode p s = .ok v ∧ b64Groups p.b64StrictTrailing (b64Text p s) = some v ∧ (b64Text p s).length % 4 = 0) ∨
    b64Decode p s = .error .b64Invalid := by
  unfold b64Decode
  split
  · exact .inr rfl
  · split
    · exact .inr rfl
    · exact .inl ⟨_, rfl, ‹_›, by omega⟩

/-- A group decodes to three bytes less one for each pad character. -/
theorem b64DecodeGroup_length (strict : Bool) (cs v : ByteString) (pads : Nat) (h : b64DecodeGroup strict cs pads = some v) :
    v.length = 3 - pads := by
  unfold b64DecodeGroup at h
  split at h
  · cases h
  · split at h
    · cases h
    · injection h with h
      rw [← h]
      simp [beBytes]

/-- What was decoded has at most three quarters of the text's length (R213: `3q - k`). -/
theorem b64Groups_length (strict : Bool) :
    ∀ s v : ByteString, b64Groups strict s = some v → 4 * v.length ≤ 3 * s.length
  | [c0, c1, c2, c3], v, h => by
    have := b64DecodeGroup_length _ _ _ _ h
    simp only [List.length_cons, List.length_nil]
    omega
  | c0 :: c1 :: c2 :: c3 :: d :: rest, v, h => by
    simp only [b64Groups] at h
    split at h
    · rename_i x y hx hy
      injection h with h
      have h1 := b64DecodeGroup_length _ _ _ _ hx
      have h2 := b64Groups_length strict (d :: rest) y hy
      rw [← h]
      simp only [List.length_append, List.length_cons] at h2 ⊢
      omega
    · cases h
  | [], v, h => by injection h with h; simp [← h]
  | [_], v, h => by cases h
  | [_, _], v, h => by cases h
  | [_, _, _], v, h => by cases h

/-- Everything ZTRUNC can answer (R177). -/
theorem ztrunc_cases (b : ByteString) (len : Nat) :
    (b.length < len ∧ ztrunc b len = .error .elenRange) ∨ (len ≤ b.length ∧ ztrunc b len = .ok (b.take len)) := by
  unfold ztrunc
  split
  · exact .inl ⟨‹_›, rfl⟩
  · exact .inr ⟨by omega, rfl⟩

/-- Everything KEYFIT can answer (R281, R282): a key of a valid length, or the one error. -/
theorem keyfit_cases (lk : ByteString) :
    (32 < lk.length ∧ keyfit lk = .error .legacyKeyTooLong) ∨
    (lk.length ≤ 32 ∧ ∃ n, (n = 16 ∨ n = 24 ∨ n = 32) ∧ lk.length ≤ n ∧ keyfit lk = .ok (lk ++ zeros (n - lk.length))) := by
  unfold keyfit
  split_ifs with h1 h2 h3
  · exact .inr ⟨by omega, 16, .inl rfl, h1, rfl⟩
  · exact .inr ⟨by omega, 24, .inr (.inl rfl), h2, rfl⟩
  · exact .inr ⟨by omega, 32, .inr (.inr rfl), h3, rfl⟩
  · exact .inl ⟨by omega, rfl⟩

/-- The block-aligned prefix is a whole number of blocks and leaves at most 15 bytes (R284). -/
theorem prefixLength_spec (n : Nat) : prefixLength n % 16 = 0 ∧ prefixLength n ≤ n ∧ n - prefixLength n ≤ 15 := by
  unfold prefixLength; omega

/-- When E_CHECK lets ENCRYPT go on (R231). -/
theorem eCheckError_eq_none_iff (p : Config.Params) (s : State) :
    eCheckError p s = none ↔ s.inLen.toNat ≤ p.inMax ∧ s.cfg.valid = true ∧ Config.mkeyMin ≤ s.cfg.mkey.length := by
  unfold eCheckError
  split_ifs with h1 h2 h3 <;> simp_all

/-- When D_CHECK lets DECRYPT go on (R251). -/
theorem dCheckError_eq_none_iff (p : Config.Params) (s : State) :
    dCheckError p s = none ↔ s.inLen.toNat ≤ p.inMax ∧ s.cfg.valid = true := by
  unfold dCheckError
  split_ifs with h1 h2 <;> simp_all

end Sys2Proof.Machine
end

