-- ==== Sys2Proof/Laws/Memory.lean ====
section
/-!
SUPPORT. The buffer spaces: every operation keeps the canonical form and the size, a byte reads as it was written and no
other byte changes, and two spaces in canonical form that read alike are equal.
-/

namespace Sys2Proof.Machine

@[simp] theorem Memory.read_nil (a : Nat) : Memory.read [] a = Memory.unlisted := rfl

theorem Memory.read_cons (c : Host.Cell) (m : Memory) (a : Nat) :
    Memory.read (c :: m) a = if c.1 = a then c.2 else Memory.read m a := rfl

theorem Memory.wf_nil : Memory.wf [] := by simp [Memory.wf]

theorem Memory.wf_cons_iff (c : Host.Cell) (m : Memory) :
    Memory.wf (c :: m) ↔ (∀ d ∈ m, c.1 < d.1) ∧ c.2 ≠ Memory.unlisted ∧ Memory.wf m := by
  simp only [Memory.wf, List.pairwise_cons, List.mem_cons, forall_eq_or_imp]
  tauto

theorem Memory.within_nil (n : Nat) : Memory.within [] n := by simp [Memory.within]

theorem Memory.within_cons_iff (c : Host.Cell) (m : Memory) (n : Nat) :
    Memory.within (c :: m) n ↔ c.1 < n ∧ Memory.within m n := by simp [Memory.within]

/-- An offset below every listed one is not listed. -/
theorem Memory.read_below (m : Memory) (a : Nat) (h : ∀ d ∈ m, a < d.1) : m.read a = Memory.unlisted := by
  induction m with
  | nil => rfl
  | cons c m ih =>
    rw [Memory.read_cons, if_neg (Nat.ne_of_gt (h c (List.mem_cons_self ..)))]
    exact ih fun d hd => h d (List.mem_cons_of_mem _ hd)

/-- A byte that differs from what unlisted offsets read as is listed. -/
theorem Memory.mem_of_read (m : Memory) (a : Nat) (h : m.read a ≠ Memory.unlisted) : ∃ d ∈ m, d.1 = a := by
  by_contra hn
  push Not at hn
  apply h
  induction m with
  | nil => rfl
  | cons c m ih =>
    have hm : Memory.read m a = Memory.unlisted := by
      by_cases hr : Memory.read m a = Memory.unlisted
      · exact hr
      · exact ih hr fun d hd => hn d (List.mem_cons_of_mem _ hd)
    rw [Memory.read_cons, if_neg (hn c (List.mem_cons_self ..)), hm]

/-- A space inside `n` bytes reads 00 from offset `n` on. -/
theorem Memory.read_beyond (m : Memory) (n a : Nat) (h : m.within n) (ha : n ≤ a) : m.read a = Memory.unlisted := by
  by_contra hr
  obtain ⟨d, hd, rfl⟩ := m.mem_of_read a hr
  exact absurd (h d hd) (by omega)

/-! ### One cell -/

theorem Memory.mem_cell (a : Nat) (b : Byte) (d : Host.Cell) :
    d ∈ Memory.cell a b ↔ d = (a, b) ∧ b ≠ Memory.unlisted := by
  unfold Memory.cell; split <;> simp_all

/-- A cell put before a space whose offsets are all higher. -/
theorem Memory.read_cell_append (a : Nat) (b : Byte) (m : Memory) (h : ∀ d ∈ m, a < d.1) (k : Nat) :
    Memory.read (Memory.cell a b ++ m) k = if k = a then b else Memory.read m k := by
  unfold Memory.cell
  split
  · rename_i hb
    split
    · rename_i hk; rw [List.nil_append, hk, hb]; exact Memory.read_below m a h
    · rfl
  · rw [List.singleton_append, Memory.read_cons]; simp only [eq_comm]

theorem Memory.wf_cell_append (a : Nat) (b : Byte) (m : Memory) (h : ∀ d ∈ m, a < d.1) (hm : m.wf) :
    Memory.wf (Memory.cell a b ++ m) := by
  unfold Memory.cell
  split
  · exact hm
  · rw [List.singleton_append, Memory.wf_cons_iff]; exact ⟨h, ‹_›, hm⟩

/-! ### Writing one byte -/

/-- What a write can list: the cell written, and cells that were there. -/
theorem Memory.mem_write (m : Memory) (a : Nat) (b : Byte) (d : Host.Cell) (h : d ∈ m.write a b) :
    d = (a, b) ∨ d ∈ m := by
  induction m with
  | nil => exact .inl ((Memory.mem_cell ..).mp h).1
  | cons c m ih =>
    simp only [Memory.write] at h
    split at h
    · rcases List.mem_append.mp h with h | h
      · exact .inl ((Memory.mem_cell ..).mp h).1
      · exact .inr h
    · split at h
      · rcases List.mem_append.mp h with h | h
        · exact .inl ((Memory.mem_cell ..).mp h).1
        · exact .inr (List.mem_cons_of_mem _ h)
      · rcases List.mem_cons.mp h with h | h
        · exact .inr (h ▸ List.mem_cons_self ..)
        · exact (ih h).imp id (List.mem_cons_of_mem _)

theorem Memory.write_wf (m : Memory) (a : Nat) (b : Byte) (h : m.wf) : (m.write a b).wf := by
  induction m with
  | nil => simpa [Memory.write] using Memory.wf_cell_append a b [] (by simp) Memory.wf_nil
  | cons c m ih =>
    obtain ⟨hlt, hb, hm⟩ := (Memory.wf_cons_iff c m).mp h
    simp only [Memory.write]
    split
    · rename_i hac
      refine Memory.wf_cell_append a b _ ?_ h
      rintro d hd
      rcases List.mem_cons.mp hd with rfl | hd
      · exact hac
      · exact hac.trans (hlt d hd)
    · split
      · rename_i hca
        exact Memory.wf_cell_append a b m (hca ▸ hlt) hm
      · refine (Memory.wf_cons_iff ..).mpr ⟨?_, hb, ih hm⟩
        rintro d hd
        rcases Memory.mem_write m a b d hd with rfl | hd
        · show c.1 < a; omega
        · exact hlt d hd

theorem Memory.write_within (m : Memory) (a : Nat) (b : Byte) (n : Nat) (h : m.within n) (ha : a < n) :
    (m.write a b).within n := by
  rintro d hd
  rcases Memory.mem_write m a b d hd with rfl | hd
  · exact ha
  · exact h d hd

/-- Read after write, at the same offset and at every other one. -/
theorem Memory.read_write (m : Memory) (a : Nat) (b : Byte) (h : m.wf) (k : Nat) :
    (m.write a b).read k = if k = a then b else m.read k := by
  induction m with
  | nil => simpa [Memory.write] using Memory.read_cell_append a b [] (by simp) k
  | cons c m ih =>
    obtain ⟨hlt, -, hm⟩ := (Memory.wf_cons_iff c m).mp h
    simp only [Memory.write]
    split
    · rename_i hac
      refine Memory.read_cell_append a b _ ?_ k
      rintro d hd
      rcases List.mem_cons.mp hd with rfl | hd
      · exact hac
      · exact hac.trans (hlt d hd)
    · split
      · rename_i hca
        rw [Memory.read_cell_append a b m (hca ▸ hlt), Memory.read_cons, hca]
        split
        · rfl
        · rw [if_neg (Ne.symm ‹_›)]
      · rename_i hca
        rw [Memory.read_cons, Memory.read_cons, ih hm]
        split
        · rw [if_neg (by omega)]
        · rfl

/-! ### Writing a whole space -/

theorem Memory.mem_ofBytes (off : Nat) (v : ByteString) (d : Host.Cell) (h : d ∈ Memory.ofBytes off v) :
    off ≤ d.1 ∧ d.1 < off + v.length := by
  induction v generalizing off with
  | nil => simp [Memory.ofBytes] at h
  | cons b v ih =>
    rcases List.mem_append.mp h with h | h
    · obtain ⟨rfl, -⟩ := (Memory.mem_cell ..).mp h
      simp
    · have := ih _ h
      simp only [List.length_cons]
      omega

theorem Memory.ofBytes_wf (off : Nat) (v : ByteString) : (Memory.ofBytes off v).wf := by
  induction v generalizing off with
  | nil => exact Memory.wf_nil
  | cons b v ih =>
    exact Memory.wf_cell_append off b _ (fun d hd => (Memory.mem_ofBytes _ v d hd).1) (ih _)

theorem Memory.read_ofBytes (off : Nat) (v : ByteString) (k : Nat) (hk : off ≤ k) :
    (Memory.ofBytes off v).read k = v.getD (k - off) Memory.unlisted := by
  induction v generalizing off with
  | nil => simp [Memory.ofBytes]
  | cons b v ih =>
    rw [Memory.ofBytes, Memory.read_cell_append off b _ fun d hd => (Memory.mem_ofBytes _ v d hd).1]
    split
    · rename_i h; subst h; simp
    · rw [ih (off + 1) (by omega), show k - off = (k - (off + 1)) + 1 by omega, List.getD_cons_succ]

theorem Memory.fill_wf (n : Nat) (v : ByteString) : (Memory.fill n v).wf := Memory.ofBytes_wf 0 _

theorem Memory.fill_within (n : Nat) (v : ByteString) : (Memory.fill n v).within n := by
  rintro d hd
  have := (Memory.mem_ofBytes 0 _ d hd).2
  simp only [List.length_take] at this
  omega

/-- What `Memory.fill` leaves: the bytes of `v` that fit, and 00 everywhere else. -/
theorem Memory.read_fill (n : Nat) (v : ByteString) (k : Nat) :
    (Memory.fill n v).read k = (v.take n).getD k Memory.unlisted := by
  simpa [Memory.fill] using Memory.read_ofBytes 0 (v.take n) k (Nat.zero_le k)

theorem Memory.read_fill_of_le (n : Nat) (v : ByteString) (h : v.length ≤ n) (k : Nat) :
    (Memory.fill n v).read k = v.getD k Memory.unlisted := by
  rw [Memory.read_fill, List.take_of_length_le h]

@[simp] theorem Memory.fill_nil (n : Nat) : Memory.fill n [] = [] := by simp [Memory.fill, Memory.ofBytes]

/-! ### Reading several bytes -/

@[simp] theorem Memory.readBytes_length (m : Memory) (off n : Nat) : (m.readBytes off n).length = n := by
  simp [Memory.readBytes]

theorem Memory.readBytes_getElem (m : Memory) (off n i : Nat) (h : i < (m.readBytes off n).length) :
    (m.readBytes off n)[i] = m.read (off + i) := by simp [Memory.readBytes]

theorem Memory.readBytes_zero (m : Memory) (off : Nat) : m.readBytes off 0 = [] := rfl

theorem Memory.readBytes_drop (m : Memory) (off n k : Nat) :
    (m.readBytes off n).drop k = m.readBytes (off + k) (n - k) := by
  apply List.ext_getElem
  · simp
  · intro i _ _
    simp [Memory.readBytes, Nat.add_assoc]

theorem Memory.readBytes_take (m : Memory) (off n k : Nat) (h : k ≤ n) :
    (m.readBytes off n).take k = m.readBytes off k := by
  apply List.ext_getElem
  · simp [h]
  · intro i _ _
    simp [Memory.readBytes]

theorem Memory.readBytes_congr (m m' : Memory) (off n : Nat) (h : ∀ k, m.read k = m'.read k) :
    m.readBytes off n = m'.readBytes off n := by simp [Memory.readBytes, h]

/-- Reading back what `Memory.fill` stored. -/
theorem Memory.readBytes_fill (n : Nat) (v : ByteString) (h : v.length ≤ n) :
    (Memory.fill n v).readBytes 0 v.length = v := by
  apply List.ext_getElem
  · simp
  · intro i h1 h2
    rw [Memory.readBytes_getElem, Memory.read_fill_of_le n v h, Nat.zero_add, List.getD_eq_getElem _ _ h2]

/-! ### The canonical form is canonical -/

/-- Two spaces in canonical form that read alike are the same data. -/
theorem Memory.eq_of_read_eq (m m' : Memory) (h : m.wf) (h' : m'.wf) (hr : ∀ a, m.read a = m'.read a) : m = m' := by
  induction m generalizing m' with
  | nil =>
    cases m' with
    | nil => rfl
    | cons c m' =>
      have := hr c.1
      rw [Memory.read_cons, if_pos rfl] at this
      exact absurd this.symm ((Memory.wf_cons_iff c m').mp h').2.1
  | cons c m ih =>
    obtain ⟨hlt, hb, hm⟩ := (Memory.wf_cons_iff c m).mp h
    cases m' with
    | nil =>
      have := hr c.1
      rw [Memory.read_cons, if_pos rfl] at this
      exact absurd this hb
    | cons d m' =>
      obtain ⟨hlt', hb', hm'⟩ := (Memory.wf_cons_iff d m').mp h'
      have hcd : c.1 = d.1 := by
        have h1 := hr c.1
        have h2 := hr d.1
        rw [Memory.read_cons, if_pos rfl, Memory.read_cons] at h1
        rw [Memory.read_cons, Memory.read_cons d, if_pos rfl] at h2
        rcases Nat.lt_trichotomy c.1 d.1 with hc | hc | hc
        · rw [if_neg (by omega), Memory.read_below m' c.1 fun e he => hc.trans (hlt' e he)] at h1
          exact absurd h1 hb
        · exact hc
        · rw [if_neg (by omega), Memory.read_below m d.1 fun e he => hc.trans (hlt e he)] at h2
          exact absurd h2.symm hb'
      have hval : c.2 = d.2 := by
        have := hr c.1
        rwa [Memory.read_cons, if_pos rfl, Memory.read_cons, if_pos hcd.symm] at this
      have hrest : m = m' := by
        refine ih m' hm hm' fun a => ?_
        by_cases hca : c.1 = a
        · rw [Memory.read_below m a fun e he => hca ▸ hlt e he, Memory.read_below m' a fun e he => hca ▸ hcd ▸ hlt' e he]
        · have := hr a
          rwa [Memory.read_cons, if_neg hca, Memory.read_cons, if_neg (hcd ▸ hca)] at this
      rw [hrest, Prod.ext hcd hval]

/-! ### Reset -/

/-- Every buffer space is in canonical form after reset (R370). -/
theorem State.reset_spaces_wf :
    State.reset.inbuf.wf ∧ State.reset.outbuf.wf ∧ State.reset.vtag.wf ∧ State.reset.sCurTag.wf ∧ State.reset.sMkey.wf ∧
      ∀ e ∈ State.reset.staged, e.tag.wf ∧ e.key.wf := by
  refine ⟨Memory.wf_nil, Memory.wf_nil, Memory.wf_nil, Memory.wf_nil, Memory.wf_nil, fun e he => ?_⟩
  rw [(List.mem_replicate.mp he).2]
  exact ⟨Memory.wf_nil, Memory.wf_nil⟩

end Sys2Proof.Machine
end

