-- ==== Sys2Proof/Laws/State.lean ====
section
/-!
SUPPORT. What each update of the state leaves in each field: one lemma for a field and an update, all true by `rfl`, so that
no proof unfolds a record update.
-/

namespace Sys2Proof.Machine

/-! Going to another phase. -/

@[simp] theorem State.goTo_cmdReg (s : State) (target : BitVec 5) : (s.goTo target).cmdReg = s.cmdReg := rfl
@[simp] theorem State.goTo_stBusy (s : State) (target : BitVec 5) : (s.goTo target).stBusy = s.stBusy := rfl
@[simp] theorem State.goTo_stDone (s : State) (target : BitVec 5) : (s.goTo target).stDone = s.stDone := rfl
@[simp] theorem State.goTo_stErr (s : State) (target : BitVec 5) : (s.goTo target).stErr = s.stErr := rfl
@[simp] theorem State.goTo_stPath (s : State) (target : BitVec 5) : (s.goTo target).stPath = s.stPath := rfl
@[simp] theorem State.goTo_phase (s : State) (target : BitVec 5) : (s.goTo target).phase = target := rfl
@[simp] theorem State.goTo_errCode (s : State) (target : BitVec 5) : (s.goTo target).errCode = s.errCode := rfl
@[simp] theorem State.goTo_inLen (s : State) (target : BitVec 5) : (s.goTo target).inLen = s.inLen := rfl
@[simp] theorem State.goTo_outLen (s : State) (target : BitVec 5) : (s.goTo target).outLen = s.outLen := rfl
@[simp] theorem State.goTo_sCurTagLen (s : State) (target : BitVec 5) : (s.goTo target).sCurTagLen = s.sCurTagLen := rfl
@[simp] theorem State.goTo_sMkeyLen (s : State) (target : BitVec 5) : (s.goTo target).sMkeyLen = s.sMkeyLen := rfl
@[simp] theorem State.goTo_sNleg (s : State) (target : BitVec 5) : (s.goTo target).sNleg = s.sNleg := rfl
@[simp] theorem State.goTo_inbuf (s : State) (target : BitVec 5) : (s.goTo target).inbuf = s.inbuf := rfl
@[simp] theorem State.goTo_outbuf (s : State) (target : BitVec 5) : (s.goTo target).outbuf = s.outbuf := rfl
@[simp] theorem State.goTo_vtag (s : State) (target : BitVec 5) : (s.goTo target).vtag = s.vtag := rfl
@[simp] theorem State.goTo_sCurTag (s : State) (target : BitVec 5) : (s.goTo target).sCurTag = s.sCurTag := rfl
@[simp] theorem State.goTo_sMkey (s : State) (target : BitVec 5) : (s.goTo target).sMkey = s.sMkey := rfl
@[simp] theorem State.goTo_staged (s : State) (target : BitVec 5) : (s.goTo target).staged = s.staged := rfl
@[simp] theorem State.goTo_cfg (s : State) (target : BitVec 5) : (s.goTo target).cfg = s.cfg := rfl
@[simp] theorem State.goTo_wk (s : State) (target : BitVec 5) : (s.goTo target).wk = s.wk := rfl
@[simp] theorem State.goTo_draws (s : State) (target : BitVec 5) : (s.goTo target).draws = s.draws := rfl
@[simp] theorem State.goTo_agenda (s : State) (target : BitVec 5) : (s.goTo target).agenda = s.agenda := rfl
@[simp] theorem State.goTo_hostData (s : State) (target : BitVec 5) : (s.goTo target).hostData = s.hostData := rfl

/-! Taking an exception (R344). -/

@[simp] theorem State.raise_cmdReg (s : State) (e : ErrorCause) : (s.raise e).cmdReg = s.cmdReg := rfl
@[simp] theorem State.raise_stBusy (s : State) (e : ErrorCause) : (s.raise e).stBusy = s.stBusy := rfl
@[simp] theorem State.raise_stDone (s : State) (e : ErrorCause) : (s.raise e).stDone = s.stDone := rfl
@[simp] theorem State.raise_stErr (s : State) (e : ErrorCause) : (s.raise e).stErr = s.stErr := rfl
@[simp] theorem State.raise_stPath (s : State) (e : ErrorCause) : (s.raise e).stPath = s.stPath := rfl
@[simp] theorem State.raise_phase (s : State) (e : ErrorCause) : (s.raise e).phase = Phase.fail := rfl
@[simp] theorem State.raise_errCode (s : State) (e : ErrorCause) : (s.raise e).errCode = s.errCode := rfl
@[simp] theorem State.raise_inLen (s : State) (e : ErrorCause) : (s.raise e).inLen = s.inLen := rfl
@[simp] theorem State.raise_outLen (s : State) (e : ErrorCause) : (s.raise e).outLen = s.outLen := rfl
@[simp] theorem State.raise_sCurTagLen (s : State) (e : ErrorCause) : (s.raise e).sCurTagLen = s.sCurTagLen := rfl
@[simp] theorem State.raise_sMkeyLen (s : State) (e : ErrorCause) : (s.raise e).sMkeyLen = s.sMkeyLen := rfl
@[simp] theorem State.raise_sNleg (s : State) (e : ErrorCause) : (s.raise e).sNleg = s.sNleg := rfl
@[simp] theorem State.raise_inbuf (s : State) (e : ErrorCause) : (s.raise e).inbuf = s.inbuf := rfl
@[simp] theorem State.raise_outbuf (s : State) (e : ErrorCause) : (s.raise e).outbuf = s.outbuf := rfl
@[simp] theorem State.raise_vtag (s : State) (e : ErrorCause) : (s.raise e).vtag = s.vtag := rfl
@[simp] theorem State.raise_sCurTag (s : State) (e : ErrorCause) : (s.raise e).sCurTag = s.sCurTag := rfl
@[simp] theorem State.raise_sMkey (s : State) (e : ErrorCause) : (s.raise e).sMkey = s.sMkey := rfl
@[simp] theorem State.raise_staged (s : State) (e : ErrorCause) : (s.raise e).staged = s.staged := rfl
@[simp] theorem State.raise_cfg (s : State) (e : ErrorCause) : (s.raise e).cfg = s.cfg := rfl
@[simp] theorem State.raise_wk (s : State) (e : ErrorCause) : (s.raise e).wk = { s.wk with raisedCode := e.code } := rfl
@[simp] theorem State.raise_draws (s : State) (e : ErrorCause) : (s.raise e).draws = s.draws := rfl
@[simp] theorem State.raise_agenda (s : State) (e : ErrorCause) : (s.raise e).agenda = s.agenda := rfl
@[simp] theorem State.raise_hostData (s : State) (e : ErrorCause) : (s.raise e).hostData = s.hostData := rfl

/-! Accepting a CMD write (R72). -/

@[simp] theorem State.accept_cmdReg (s : State) (w : Word) : (s.accept w).cmdReg = w := rfl
@[simp] theorem State.accept_stBusy (s : State) (w : Word) : (s.accept w).stBusy = true := rfl
@[simp] theorem State.accept_stDone (s : State) (w : Word) : (s.accept w).stDone = false := rfl
@[simp] theorem State.accept_stErr (s : State) (w : Word) : (s.accept w).stErr = false := rfl
@[simp] theorem State.accept_stPath (s : State) (w : Word) : (s.accept w).stPath = .noBranch := rfl
@[simp] theorem State.accept_phase (s : State) (w : Word) : (s.accept w).phase = Phase.decode := rfl
@[simp] theorem State.accept_errCode (s : State) (w : Word) : (s.accept w).errCode = s.errCode := rfl
@[simp] theorem State.accept_inLen (s : State) (w : Word) : (s.accept w).inLen = s.inLen := rfl
@[simp] theorem State.accept_outLen (s : State) (w : Word) : (s.accept w).outLen = s.outLen := rfl
@[simp] theorem State.accept_sCurTagLen (s : State) (w : Word) : (s.accept w).sCurTagLen = s.sCurTagLen := rfl
@[simp] theorem State.accept_sMkeyLen (s : State) (w : Word) : (s.accept w).sMkeyLen = s.sMkeyLen := rfl
@[simp] theorem State.accept_sNleg (s : State) (w : Word) : (s.accept w).sNleg = s.sNleg := rfl
@[simp] theorem State.accept_inbuf (s : State) (w : Word) : (s.accept w).inbuf = s.inbuf := rfl
@[simp] theorem State.accept_outbuf (s : State) (w : Word) : (s.accept w).outbuf = s.outbuf := rfl
@[simp] theorem State.accept_vtag (s : State) (w : Word) : (s.accept w).vtag = s.vtag := rfl
@[simp] theorem State.accept_sCurTag (s : State) (w : Word) : (s.accept w).sCurTag = s.sCurTag := rfl
@[simp] theorem State.accept_sMkey (s : State) (w : Word) : (s.accept w).sMkey = s.sMkey := rfl
@[simp] theorem State.accept_staged (s : State) (w : Word) : (s.accept w).staged = s.staged := rfl
@[simp] theorem State.accept_cfg (s : State) (w : Word) : (s.accept w).cfg = s.cfg := rfl
@[simp] theorem State.accept_wk (s : State) (w : Word) : (s.accept w).wk = s.wk := rfl
@[simp] theorem State.accept_draws (s : State) (w : Word) : (s.accept w).draws = s.draws := rfl
@[simp] theorem State.accept_agenda (s : State) (w : Word) : (s.accept w).agenda = s.agenda := rfl
@[simp] theorem State.accept_hostData (s : State) (w : Word) : (s.accept w).hostData = s.hostData := rfl

/-! The failing end of a command (R344). -/

@[simp] theorem State.endFailed_cmdReg (s : State) (code : BitVec 8) : (s.endFailed code).cmdReg = s.cmdReg := rfl
@[simp] theorem State.endFailed_stBusy (s : State) (code : BitVec 8) : (s.endFailed code).stBusy = false := rfl
@[simp] theorem State.endFailed_stDone (s : State) (code : BitVec 8) : (s.endFailed code).stDone = true := rfl
@[simp] theorem State.endFailed_stErr (s : State) (code : BitVec 8) : (s.endFailed code).stErr = true := rfl
@[simp] theorem State.endFailed_stPath (s : State) (code : BitVec 8) : (s.endFailed code).stPath = s.stPath := rfl
@[simp] theorem State.endFailed_phase (s : State) (code : BitVec 8) : (s.endFailed code).phase = Phase.idle := rfl
@[simp] theorem State.endFailed_errCode (s : State) (code : BitVec 8) : (s.endFailed code).errCode = code := rfl
@[simp] theorem State.endFailed_inLen (s : State) (code : BitVec 8) : (s.endFailed code).inLen = s.inLen := rfl
@[simp] theorem State.endFailed_outLen (s : State) (code : BitVec 8) : (s.endFailed code).outLen = 0#32 := rfl
@[simp] theorem State.endFailed_sCurTagLen (s : State) (code : BitVec 8) : (s.endFailed code).sCurTagLen = s.sCurTagLen := rfl
@[simp] theorem State.endFailed_sMkeyLen (s : State) (code : BitVec 8) : (s.endFailed code).sMkeyLen = s.sMkeyLen := rfl
@[simp] theorem State.endFailed_sNleg (s : State) (code : BitVec 8) : (s.endFailed code).sNleg = s.sNleg := rfl
@[simp] theorem State.endFailed_inbuf (s : State) (code : BitVec 8) : (s.endFailed code).inbuf = s.inbuf := rfl
@[simp] theorem State.endFailed_outbuf (s : State) (code : BitVec 8) : (s.endFailed code).outbuf = Memory.fill 0 [] := rfl
@[simp] theorem State.endFailed_vtag (s : State) (code : BitVec 8) : (s.endFailed code).vtag = s.vtag := rfl
@[simp] theorem State.endFailed_sCurTag (s : State) (code : BitVec 8) : (s.endFailed code).sCurTag = s.sCurTag := rfl
@[simp] theorem State.endFailed_sMkey (s : State) (code : BitVec 8) : (s.endFailed code).sMkey = s.sMkey := rfl
@[simp] theorem State.endFailed_staged (s : State) (code : BitVec 8) : (s.endFailed code).staged = s.staged := rfl
@[simp] theorem State.endFailed_cfg (s : State) (code : BitVec 8) : (s.endFailed code).cfg = s.cfg := rfl
@[simp] theorem State.endFailed_wk (s : State) (code : BitVec 8) : (s.endFailed code).wk = s.wk := rfl
@[simp] theorem State.endFailed_draws (s : State) (code : BitVec 8) : (s.endFailed code).draws = s.draws := rfl
@[simp] theorem State.endFailed_agenda (s : State) (code : BitVec 8) : (s.endFailed code).agenda = s.agenda := rfl
@[simp] theorem State.endFailed_hostData (s : State) (code : BitVec 8) : (s.endFailed code).hostData = s.hostData := rfl

/-! The successful end of a command (R345). -/

@[simp] theorem State.endOk_cmdReg (p : Config.Params) (s : State) (v : ByteString) : (s.endOk p v).cmdReg = s.cmdReg := rfl
@[simp] theorem State.endOk_stBusy (p : Config.Params) (s : State) (v : ByteString) : (s.endOk p v).stBusy = false := rfl
@[simp] theorem State.endOk_stDone (p : Config.Params) (s : State) (v : ByteString) : (s.endOk p v).stDone = true := rfl
@[simp] theorem State.endOk_stErr (p : Config.Params) (s : State) (v : ByteString) : (s.endOk p v).stErr = false := rfl
@[simp] theorem State.endOk_stPath (p : Config.Params) (s : State) (v : ByteString) : (s.endOk p v).stPath = s.stPath := rfl
@[simp] theorem State.endOk_phase (p : Config.Params) (s : State) (v : ByteString) : (s.endOk p v).phase = Phase.idle := rfl
@[simp] theorem State.endOk_errCode (p : Config.Params) (s : State) (v : ByteString) : (s.endOk p v).errCode = 0#8 := rfl
@[simp] theorem State.endOk_inLen (p : Config.Params) (s : State) (v : ByteString) : (s.endOk p v).inLen = s.inLen := rfl
@[simp] theorem State.endOk_outLen (p : Config.Params) (s : State) (v : ByteString) : (s.endOk p v).outLen = outLenOf v.length := rfl
@[simp] theorem State.endOk_sCurTagLen (p : Config.Params) (s : State) (v : ByteString) : (s.endOk p v).sCurTagLen = s.sCurTagLen := rfl
@[simp] theorem State.endOk_sMkeyLen (p : Config.Params) (s : State) (v : ByteString) : (s.endOk p v).sMkeyLen = s.sMkeyLen := rfl
@[simp] theorem State.endOk_sNleg (p : Config.Params) (s : State) (v : ByteString) : (s.endOk p v).sNleg = s.sNleg := rfl
@[simp] theorem State.endOk_inbuf (p : Config.Params) (s : State) (v : ByteString) : (s.endOk p v).inbuf = s.inbuf := rfl
@[simp] theorem State.endOk_outbuf (p : Config.Params) (s : State) (v : ByteString) : (s.endOk p v).outbuf = Memory.fill p.outMax v := rfl
@[simp] theorem State.endOk_vtag (p : Config.Params) (s : State) (v : ByteString) : (s.endOk p v).vtag = s.vtag := rfl
@[simp] theorem State.endOk_sCurTag (p : Config.Params) (s : State) (v : ByteString) : (s.endOk p v).sCurTag = s.sCurTag := rfl
@[simp] theorem State.endOk_sMkey (p : Config.Params) (s : State) (v : ByteString) : (s.endOk p v).sMkey = s.sMkey := rfl
@[simp] theorem State.endOk_staged (p : Config.Params) (s : State) (v : ByteString) : (s.endOk p v).staged = s.staged := rfl
@[simp] theorem State.endOk_cfg (p : Config.Params) (s : State) (v : ByteString) : (s.endOk p v).cfg = s.cfg := rfl
@[simp] theorem State.endOk_wk (p : Config.Params) (s : State) (v : ByteString) : (s.endOk p v).wk = s.wk := rfl
@[simp] theorem State.endOk_draws (p : Config.Params) (s : State) (v : ByteString) : (s.endOk p v).draws = s.draws := rfl
@[simp] theorem State.endOk_agenda (p : Config.Params) (s : State) (v : ByteString) : (s.endOk p v).agenda = s.agenda := rfl
@[simp] theorem State.endOk_hostData (p : Config.Params) (s : State) (v : ByteString) : (s.endOk p v).hostData = s.hostData := rfl

/-! One draw (R45). -/

@[simp] theorem State.afterDraw_cmdReg (s : State) : (s.afterDraw).cmdReg = s.cmdReg := rfl
@[simp] theorem State.afterDraw_stBusy (s : State) : (s.afterDraw).stBusy = s.stBusy := rfl
@[simp] theorem State.afterDraw_stDone (s : State) : (s.afterDraw).stDone = s.stDone := rfl
@[simp] theorem State.afterDraw_stErr (s : State) : (s.afterDraw).stErr = s.stErr := rfl
@[simp] theorem State.afterDraw_stPath (s : State) : (s.afterDraw).stPath = s.stPath := rfl
@[simp] theorem State.afterDraw_phase (s : State) : (s.afterDraw).phase = s.phase := rfl
@[simp] theorem State.afterDraw_errCode (s : State) : (s.afterDraw).errCode = s.errCode := rfl
@[simp] theorem State.afterDraw_inLen (s : State) : (s.afterDraw).inLen = s.inLen := rfl
@[simp] theorem State.afterDraw_outLen (s : State) : (s.afterDraw).outLen = s.outLen := rfl
@[simp] theorem State.afterDraw_sCurTagLen (s : State) : (s.afterDraw).sCurTagLen = s.sCurTagLen := rfl
@[simp] theorem State.afterDraw_sMkeyLen (s : State) : (s.afterDraw).sMkeyLen = s.sMkeyLen := rfl
@[simp] theorem State.afterDraw_sNleg (s : State) : (s.afterDraw).sNleg = s.sNleg := rfl
@[simp] theorem State.afterDraw_inbuf (s : State) : (s.afterDraw).inbuf = s.inbuf := rfl
@[simp] theorem State.afterDraw_outbuf (s : State) : (s.afterDraw).outbuf = s.outbuf := rfl
@[simp] theorem State.afterDraw_vtag (s : State) : (s.afterDraw).vtag = s.vtag := rfl
@[simp] theorem State.afterDraw_sCurTag (s : State) : (s.afterDraw).sCurTag = s.sCurTag := rfl
@[simp] theorem State.afterDraw_sMkey (s : State) : (s.afterDraw).sMkey = s.sMkey := rfl
@[simp] theorem State.afterDraw_staged (s : State) : (s.afterDraw).staged = s.staged := rfl
@[simp] theorem State.afterDraw_cfg (s : State) : (s.afterDraw).cfg = s.cfg := rfl
@[simp] theorem State.afterDraw_wk (s : State) : (s.afterDraw).wk = s.wk := rfl
@[simp] theorem State.afterDraw_draws (s : State) : (s.afterDraw).draws = s.draws + 1 := rfl
@[simp] theorem State.afterDraw_agenda (s : State) : (s.afterDraw).agenda = s.agenda := rfl
@[simp] theorem State.afterDraw_hostData (s : State) : (s.afterDraw).hostData = s.hostData := rfl

/-! Changing one staging slot. -/

@[simp] theorem State.setSlot_cmdReg (s : State) (i : Nat) (f : StagedEntry → StagedEntry) : (s.setSlot i f).cmdReg = s.cmdReg := rfl
@[simp] theorem State.setSlot_stBusy (s : State) (i : Nat) (f : StagedEntry → StagedEntry) : (s.setSlot i f).stBusy = s.stBusy := rfl
@[simp] theorem State.setSlot_stDone (s : State) (i : Nat) (f : StagedEntry → StagedEntry) : (s.setSlot i f).stDone = s.stDone := rfl
@[simp] theorem State.setSlot_stErr (s : State) (i : Nat) (f : StagedEntry → StagedEntry) : (s.setSlot i f).stErr = s.stErr := rfl
@[simp] theorem State.setSlot_stPath (s : State) (i : Nat) (f : StagedEntry → StagedEntry) : (s.setSlot i f).stPath = s.stPath := rfl
@[simp] theorem State.setSlot_phase (s : State) (i : Nat) (f : StagedEntry → StagedEntry) : (s.setSlot i f).phase = s.phase := rfl
@[simp] theorem State.setSlot_errCode (s : State) (i : Nat) (f : StagedEntry → StagedEntry) : (s.setSlot i f).errCode = s.errCode := rfl
@[simp] theorem State.setSlot_inLen (s : State) (i : Nat) (f : StagedEntry → StagedEntry) : (s.setSlot i f).inLen = s.inLen := rfl
@[simp] theorem State.setSlot_outLen (s : State) (i : Nat) (f : StagedEntry → StagedEntry) : (s.setSlot i f).outLen = s.outLen := rfl
@[simp] theorem State.setSlot_sCurTagLen (s : State) (i : Nat) (f : StagedEntry → StagedEntry) : (s.setSlot i f).sCurTagLen = s.sCurTagLen := rfl
@[simp] theorem State.setSlot_sMkeyLen (s : State) (i : Nat) (f : StagedEntry → StagedEntry) : (s.setSlot i f).sMkeyLen = s.sMkeyLen := rfl
@[simp] theorem State.setSlot_sNleg (s : State) (i : Nat) (f : StagedEntry → StagedEntry) : (s.setSlot i f).sNleg = s.sNleg := rfl
@[simp] theorem State.setSlot_inbuf (s : State) (i : Nat) (f : StagedEntry → StagedEntry) : (s.setSlot i f).inbuf = s.inbuf := rfl
@[simp] theorem State.setSlot_outbuf (s : State) (i : Nat) (f : StagedEntry → StagedEntry) : (s.setSlot i f).outbuf = s.outbuf := rfl
@[simp] theorem State.setSlot_vtag (s : State) (i : Nat) (f : StagedEntry → StagedEntry) : (s.setSlot i f).vtag = s.vtag := rfl
@[simp] theorem State.setSlot_sCurTag (s : State) (i : Nat) (f : StagedEntry → StagedEntry) : (s.setSlot i f).sCurTag = s.sCurTag := rfl
@[simp] theorem State.setSlot_sMkey (s : State) (i : Nat) (f : StagedEntry → StagedEntry) : (s.setSlot i f).sMkey = s.sMkey := rfl
@[simp] theorem State.setSlot_staged (s : State) (i : Nat) (f : StagedEntry → StagedEntry) : (s.setSlot i f).staged = s.staged.modify i f := rfl
@[simp] theorem State.setSlot_cfg (s : State) (i : Nat) (f : StagedEntry → StagedEntry) : (s.setSlot i f).cfg = s.cfg := rfl
@[simp] theorem State.setSlot_wk (s : State) (i : Nat) (f : StagedEntry → StagedEntry) : (s.setSlot i f).wk = s.wk := rfl
@[simp] theorem State.setSlot_draws (s : State) (i : Nat) (f : StagedEntry → StagedEntry) : (s.setSlot i f).draws = s.draws := rfl
@[simp] theorem State.setSlot_agenda (s : State) (i : Nat) (f : StagedEntry → StagedEntry) : (s.setSlot i f).agenda = s.agenda := rfl
@[simp] theorem State.setSlot_hostData (s : State) (i : Nat) (f : StagedEntry → StagedEntry) : (s.setSlot i f).hostData = s.hostData := rfl

/-! The reset event (R370). -/

@[simp] theorem State.afterReset_cmdReg (p : Config.Params) (s : State) : (s.afterReset p).cmdReg = (State.resetWith p.nlegMax).cmdReg := rfl
@[simp] theorem State.afterReset_stBusy (p : Config.Params) (s : State) : (s.afterReset p).stBusy = (State.resetWith p.nlegMax).stBusy := rfl
@[simp] theorem State.afterReset_stDone (p : Config.Params) (s : State) : (s.afterReset p).stDone = (State.resetWith p.nlegMax).stDone := rfl
@[simp] theorem State.afterReset_stErr (p : Config.Params) (s : State) : (s.afterReset p).stErr = (State.resetWith p.nlegMax).stErr := rfl
@[simp] theorem State.afterReset_stPath (p : Config.Params) (s : State) : (s.afterReset p).stPath = (State.resetWith p.nlegMax).stPath := rfl
@[simp] theorem State.afterReset_phase (p : Config.Params) (s : State) : (s.afterReset p).phase = (State.resetWith p.nlegMax).phase := rfl
@[simp] theorem State.afterReset_errCode (p : Config.Params) (s : State) : (s.afterReset p).errCode = (State.resetWith p.nlegMax).errCode := rfl
@[simp] theorem State.afterReset_inLen (p : Config.Params) (s : State) : (s.afterReset p).inLen = (State.resetWith p.nlegMax).inLen := rfl
@[simp] theorem State.afterReset_outLen (p : Config.Params) (s : State) : (s.afterReset p).outLen = (State.resetWith p.nlegMax).outLen := rfl
@[simp] theorem State.afterReset_sCurTagLen (p : Config.Params) (s : State) : (s.afterReset p).sCurTagLen = (State.resetWith p.nlegMax).sCurTagLen := rfl
@[simp] theorem State.afterReset_sMkeyLen (p : Config.Params) (s : State) : (s.afterReset p).sMkeyLen = (State.resetWith p.nlegMax).sMkeyLen := rfl
@[simp] theorem State.afterReset_sNleg (p : Config.Params) (s : State) : (s.afterReset p).sNleg = (State.resetWith p.nlegMax).sNleg := rfl
@[simp] theorem State.afterReset_inbuf (p : Config.Params) (s : State) : (s.afterReset p).inbuf = (State.resetWith p.nlegMax).inbuf := rfl
@[simp] theorem State.afterReset_outbuf (p : Config.Params) (s : State) : (s.afterReset p).outbuf = (State.resetWith p.nlegMax).outbuf := rfl
@[simp] theorem State.afterReset_vtag (p : Config.Params) (s : State) : (s.afterReset p).vtag = (State.resetWith p.nlegMax).vtag := rfl
@[simp] theorem State.afterReset_sCurTag (p : Config.Params) (s : State) : (s.afterReset p).sCurTag = (State.resetWith p.nlegMax).sCurTag := rfl
@[simp] theorem State.afterReset_sMkey (p : Config.Params) (s : State) : (s.afterReset p).sMkey = (State.resetWith p.nlegMax).sMkey := rfl
@[simp] theorem State.afterReset_staged (p : Config.Params) (s : State) : (s.afterReset p).staged = (State.resetWith p.nlegMax).staged := rfl
@[simp] theorem State.afterReset_cfg (p : Config.Params) (s : State) : (s.afterReset p).cfg = (State.resetWith p.nlegMax).cfg := rfl
@[simp] theorem State.afterReset_wk (p : Config.Params) (s : State) : (s.afterReset p).wk = (State.resetWith p.nlegMax).wk := rfl
@[simp] theorem State.afterReset_draws (p : Config.Params) (s : State) : (s.afterReset p).draws = s.draws := rfl
@[simp] theorem State.afterReset_agenda (p : Config.Params) (s : State) : (s.afterReset p).agenda = s.agenda := rfl
@[simp] theorem State.afterReset_hostData (p : Config.Params) (s : State) : (s.afterReset p).hostData = s.hostData := rfl

end Sys2Proof.Machine
end

