-- ==== Sys2Proof/Laws/Ops.lean ====
section
/-!
SUPPORT. One lemma for each shared operation that says everything it does, in the terms of `Safety.lean`: later proofs cite it
and unfold nothing.
-/

namespace Sys2Proof.Machine

/-! ### The bytes of the spaces -/

/-- States with the same six parts of the memory have the same bytes. -/
theorem sameBytes_of_eq (s t : State) (h1 : t.inbuf = s.inbuf) (h2 : t.outbuf = s.outbuf) (h3 : t.vtag = s.vtag)
    (h4 : t.sCurTag = s.sCurTag) (h5 : t.sMkey = s.sMkey) (h6 : t.staged = s.staged) : SameBytes s t := by
  intro space off
  simp only [byteAt, State.slot, h1, h2, h3, h4, h5, h6]

/-- States with the same five parts of the memory outside OUTBUF have the same bytes there. -/
theorem sameBytesButOut_of_eq (s t : State) (h1 : t.inbuf = s.inbuf) (h3 : t.vtag = s.vtag) (h4 : t.sCurTag = s.sCurTag)
    (h5 : t.sMkey = s.sMkey) (h6 : t.staged = s.staged) : SameBytesButOut s t := by
  intro space off h
  simp only [byteAt, State.slot, h1, h3, h4, h5, h6, if_neg h]

theorem SameBytes.refl (s : State) : SameBytes s s := fun _ _ => rfl

/-- The byte of each space under its number. -/
theorem byteAt_cases (s : State) (off i : Nat) :
    byteAt s 1 off = s.inbuf.read off ∧ byteAt s 2 off = s.outbuf.read off ∧ byteAt s 3 off = s.vtag.read off ∧
    byteAt s 4 off = s.sCurTag.read off ∧ byteAt s 5 off = s.sMkey.read off ∧
    byteAt s (16 + 2 * i) off = (s.slot i).tag.read off ∧ byteAt s (17 + 2 * i) off = (s.slot i).key.read off := by
  have hi : (16 + 2 * i - 16) / 2 = i ∧ (17 + 2 * i - 16) / 2 = i := by omega
  refine ⟨rfl, rfl, rfl, rfl, rfl, ?_, ?_⟩ <;> unfold byteAt <;> split_ifs <;> first | omega | simp only [hi]

/-- Outside the spaces there is no byte. -/
theorem byteAt_outside (s : State) (space off : Nat) (h : space = 0 ∨ (6 ≤ space ∧ space < 16)) : byteAt s space off = 0#8 := by
  unfold byteAt
  split_ifs <;> first | rfl | omega

/-! ### The staging slots -/

theorem State.slot_of_ge (s : State) (i : Nat) (h : s.staged.length ≤ i) : s.slot i = StagedEntry.reset := by
  simp [State.slot, h]

theorem State.slot_mem (s : State) (i : Nat) (h : i < s.staged.length) : s.slot i ∈ s.staged := by
  simp [State.slot, h]

/-- Changing a slot changes that slot and no other one. -/
theorem State.slot_setSlot (s : State) (i : Nat) (f : StagedEntry → StagedEntry) (j : Nat) :
    (s.setSlot i f).slot j = if j = i ∧ i < s.staged.length then f (s.slot i) else s.slot j := by
  simp only [State.slot, State.setSlot_staged, List.getD_eq_getElem?_getD, List.getElem?_modify]
  by_cases hi : i < s.staged.length
  · by_cases hj : j = i
    · subst hj; simp [hi]
    · simp [hj, Ne.symm hj]
  · by_cases hj : j = i
    · subst hj; simp [hi]
    · simp [hj, Ne.symm hj]

theorem State.staged_setSlot_length (s : State) (i : Nat) (f : StagedEntry → StagedEntry) :
    (s.setSlot i f).staged.length = s.staged.length := by simp

/-- A property of every slot that `f` keeps still holds of every slot. -/
theorem State.forall_staged_setSlot (s : State) (i : Nat) (f : StagedEntry → StagedEntry) (P : StagedEntry → Prop)
    (hP : ∀ e ∈ s.staged, P e) (hf : ∀ e, P e → P (f e)) : ∀ e ∈ (s.setSlot i f).staged, P e := by
  intro e he
  obtain ⟨j, hj, rfl⟩ := List.mem_iff_getElem.mp he
  simp only [State.setSlot_staged, List.getElem_modify]
  split
  · exact hf _ (hP _ (List.getElem_mem ..))
  · exact hP _ (List.getElem_mem ..)

/-! ### The transitions of the sequencer -/

/-- All that `pc <- target` does. -/
theorem State.goTo_advanced (s : State) (target : BitVec 5) : Advanced s target (s.goTo target) :=
  ⟨rfl, SameBytes.refl s⟩

/-- All that taking an exception does (R344). -/
theorem State.raise_raised (s : State) (e : ErrorCause) : Raised s e.code (s.raise e) := ⟨rfl, SameBytes.refl s⟩

/-- All that the failing end of a command does (R344). -/
theorem State.endFailed_endedFailed (s : State) (code : BitVec 8) :
    EndedFailed s s.cmdReg s.stPath code (s.endFailed code) :=
  ⟨rfl, fun k => by simp [Memory.unlisted], sameBytesButOut_of_eq _ _ rfl rfl rfl rfl rfl⟩

/-- OUT_LEN holds the length of every result shorter than 2^32 bytes (R345). -/
theorem outLenOf_toNat {n : Nat} (h : n < 2 ^ 32) : (outLenOf n).toNat = n := by
  rw [outLenOf, if_pos (by simpa using h), BitVec.toNat_ofNat, Nat.mod_eq_of_lt h]

/-- All that the successful end of a command does (R345), for a result that fits OUTBUF. -/
theorem State.endOk_endedOk (p : Config.Params) (s : State) (v : ByteString) (h : v.length ≤ p.outMax)
    (h32 : p.outMax < 2 ^ 32) : EndedOk s s.cmdReg s.stPath v (s.endOk p v) := by
  refine ⟨rfl, ?_, fun k => ?_, sameBytesButOut_of_eq _ _ rfl rfl rfl rfl rfl⟩
  · rw [State.endOk_outLen, outLenOf_toNat (by omega)]
  · rw [State.endOk_outbuf, Memory.read_fill_of_le _ _ h]; rfl

/-- A whole command that fails: accepted, some branch taken, then ended by an error. -/
theorem State.accept_endFailed (s : State) (w : Word) (path : Path) (code : BitVec 8) :
    EndedFailed s w path code (State.endFailed { s.accept w with stPath := path } code) :=
  ⟨rfl, fun k => by simp [Memory.unlisted], sameBytesButOut_of_eq _ _ rfl rfl rfl rfl rfl⟩

/-- A whole command that succeeds: accepted, some branch taken, then ended with a result that fits OUTBUF. -/
theorem State.accept_endOk (p : Config.Params) (s : State) (w : Word) (path : Path) (v : ByteString)
    (h : v.length ≤ p.outMax) (h32 : p.outMax < 2 ^ 32) :
    EndedOk s w path v (State.endOk p { s.accept w with stPath := path } v) := by
  refine ⟨rfl, ?_, fun k => ?_, sameBytesButOut_of_eq _ _ rfl rfl rfl rfl rfl⟩
  · rw [State.endOk_outLen, outLenOf_toNat (by omega)]
  · rw [State.endOk_outbuf, Memory.read_fill_of_le _ _ h]; rfl

/-- The draw is the answer that this step's event names, or the free value where it names none (log 3). -/
theorem State.nextDraw_cases (s : State) :
    (∃ e rest iv, s.agenda = e :: rest ∧ e.answer = some iv ∧ s.nextDraw = iv) ∨
    ((∀ e rest, s.agenda = e :: rest → e.answer = none) ∧ s.nextDraw = Bytes.ofList 16 (Config.draw s.draws)) := by
  unfold State.nextDraw
  cases h : s.agenda with
  | nil => exact .inr ⟨by simp, rfl⟩
  | cons e rest =>
    cases ha : e.answer with
    | none => exact .inr ⟨by rintro _ _ ⟨⟩; exact ha, by simp [ha]⟩
    | some iv => exact .inl ⟨e, rest, iv, rfl, ha, by simp [ha]⟩

/-! ### Error codes -/

/-- No error has code 0: `ERRCODE = 0` says that the last command succeeded (R29). -/
theorem ErrorCause.code_ne_zero (e : ErrorCause) : e.code ≠ 0#8 := by cases e <;> decide

/-- Different causes have different codes (R332). -/
theorem ErrorCause.code_injective (e e' : ErrorCause) (h : e.code = e'.code) : e = e' := by
  cases e <;> cases e' <;> first | rfl | (exact absurd h (by decide))

/-! ### The operands -/

@[simp] theorem State.input_length (s : State) : s.input.length = s.inLen.toNat := by simp [State.input]

@[simp] theorem State.payload_length (s : State) : s.payload.length = s.inLen.toNat - 6 := by simp [State.payload]

theorem State.input_drop (s : State) : s.input.drop 6 = s.payload := by
  simp [State.input, State.payload, Memory.readBytes_drop]

/-- The lookup gives the key of a table entry with that tag, or no entry has it. -/
theorem legLookup_cases (table : List LegacyEntry) (t : Bytes 6) :
    (∃ e ∈ table, e.tag = t ∧ legLookup table t = some e.key) ∨ ((∀ e ∈ table, e.tag ≠ t) ∧ legLookup table t = none) := by
  unfold legLookup
  cases h : table.reverse.find? (fun e => e.tag = t) with
  | some e => exact .inl ⟨e, List.mem_reverse.mp (List.mem_of_find?_eq_some h), by simpa using List.find?_some h, rfl⟩
  | none =>
    refine .inr ⟨fun e he => ?_, rfl⟩
    simpa using List.find?_eq_none.mp h e (List.mem_reverse.mpr he)

end Sys2Proof.Machine
end

