-- ==== Sys2Proof/Laws/PerInstr.lean ====
section
/-!
SUPPORT. The family `CodeFits`: one lemma for each instruction.
-/

namespace Sys2Proof.Laws

/-- The code of the instruction passes every check of `WellFormed.lean` and decodes to the instruction (R92, R96). -/
def CodeFits.Statement (i : Instr) : Prop := (encode i).WellFormed ∧ decode (encode i) = some i

theorem CodeFits.config : CodeFits.Statement .config :=
  ⟨show WellFormed.opcode _ ∧ WellFormed.reservedBits _ ∧ WellFormed.noOverrideOnConfig _ by decide, by decide⟩
theorem CodeFits.encrypt : CodeFits.Statement .encrypt :=
  ⟨show WellFormed.opcode _ ∧ WellFormed.reservedBits _ ∧ WellFormed.noOverrideOnConfig _ by decide, by decide⟩
theorem CodeFits.encryptV : CodeFits.Statement .encryptV :=
  ⟨show WellFormed.opcode _ ∧ WellFormed.reservedBits _ ∧ WellFormed.noOverrideOnConfig _ by decide, by decide⟩
theorem CodeFits.decrypt : CodeFits.Statement .decrypt :=
  ⟨show WellFormed.opcode _ ∧ WellFormed.reservedBits _ ∧ WellFormed.noOverrideOnConfig _ by decide, by decide⟩
theorem CodeFits.decryptV : CodeFits.Statement .decryptV :=
  ⟨show WellFormed.opcode _ ∧ WellFormed.reservedBits _ ∧ WellFormed.noOverrideOnConfig _ by decide, by decide⟩
theorem CodeFits.idle : CodeFits.Statement .idle := ⟨show WellFormed.phaseCode _ by decide, by decide⟩
theorem CodeFits.decode : CodeFits.Statement .decode := ⟨show WellFormed.phaseCode _ by decide, by decide⟩
theorem CodeFits.cCheck : CodeFits.Statement .cCheck := ⟨show WellFormed.phaseCode _ by decide, by decide⟩
theorem CodeFits.cCommit : CodeFits.Statement .cCommit := ⟨show WellFormed.phaseCode _ by decide, by decide⟩
theorem CodeFits.eCheck : CodeFits.Statement .eCheck := ⟨show WellFormed.phaseCode _ by decide, by decide⟩
theorem CodeFits.rng : CodeFits.Statement .rng := ⟨show WellFormed.phaseCode _ by decide, by decide⟩
theorem CodeFits.kdfInit : CodeFits.Statement .kdfInit := ⟨show WellFormed.phaseCode _ by decide, by decide⟩
theorem CodeFits.kdfIter : CodeFits.Statement .kdfIter := ⟨show WellFormed.phaseCode _ by decide, by decide⟩
theorem CodeFits.kdfDone : CodeFits.Statement .kdfDone := ⟨show WellFormed.phaseCode _ by decide, by decide⟩
theorem CodeFits.pad : CodeFits.Statement .pad := ⟨show WellFormed.phaseCode _ by decide, by decide⟩
theorem CodeFits.cbce : CodeFits.Statement .cbce := ⟨show WellFormed.phaseCode _ by decide, by decide⟩
theorem CodeFits.b64e : CodeFits.Statement .b64e := ⟨show WellFormed.phaseCode _ by decide, by decide⟩
theorem CodeFits.tagput : CodeFits.Statement .tagput := ⟨show WellFormed.phaseCode _ by decide, by decide⟩
theorem CodeFits.dCheck : CodeFits.Statement .dCheck := ⟨show WellFormed.phaseCode _ by decide, by decide⟩
theorem CodeFits.tagsplit : CodeFits.Statement .tagsplit := ⟨show WellFormed.phaseCode _ by decide, by decide⟩
theorem CodeFits.select : CodeFits.Statement .select := ⟨show WellFormed.phaseCode _ by decide, by decide⟩
theorem CodeFits.dKeychk : CodeFits.Statement .dKeychk := ⟨show WellFormed.phaseCode _ by decide, by decide⟩
theorem CodeFits.b64d : CodeFits.Statement .b64d := ⟨show WellFormed.phaseCode _ by decide, by decide⟩
theorem CodeFits.ivsplit : CodeFits.Statement .ivsplit := ⟨show WellFormed.phaseCode _ by decide, by decide⟩
theorem CodeFits.cbcd : CodeFits.Statement .cbcd := ⟨show WellFormed.phaseCode _ by decide, by decide⟩
theorem CodeFits.unpad : CodeFits.Statement .unpad := ⟨show WellFormed.phaseCode _ by decide, by decide⟩
theorem CodeFits.lKeyfit : CodeFits.Statement .lKeyfit := ⟨show WellFormed.phaseCode _ by decide, by decide⟩
theorem CodeFits.lB64d : CodeFits.Statement .lB64d := ⟨show WellFormed.phaseCode _ by decide, by decide⟩
theorem CodeFits.lSplit : CodeFits.Statement .lSplit := ⟨show WellFormed.phaseCode _ by decide, by decide⟩
theorem CodeFits.lCbcd : CodeFits.Statement .lCbcd := ⟨show WellFormed.phaseCode _ by decide, by decide⟩
theorem CodeFits.lTrunc : CodeFits.Statement .lTrunc := ⟨show WellFormed.phaseCode _ by decide, by decide⟩
theorem CodeFits.finish : CodeFits.Statement .finish := ⟨show WellFormed.phaseCode _ by decide, by decide⟩
theorem CodeFits.fail : CodeFits.Statement .fail := ⟨show WellFormed.phaseCode _ by decide, by decide⟩

end Sys2Proof.Laws
end

