-- ==== Sys2Proof/Laws/Registers.lean ====
section
/-!
SUPPORT. The capacities the machine runs with as numbers, and the staging-length registers by the index of their slot.
-/

namespace Sys2Proof.Machine

@[simp] theorem params_inMax : params.inMax = 65535 := rfl
@[simp] theorem params_outMax : params.outMax = 87410 := rfl
@[simp] theorem params_mkeyMax : params.mkeyMax = 256 := rfl
@[simp] theorem params_lkeyMax : params.lkeyMax = 256 := rfl
@[simp] theorem params_nlegMax : params.nlegMax = 8 := rfl
@[simp] theorem params_stagMax : params.stagMax = 255 := rfl
@[simp] theorem params_elenBits : params.elenBits = 120 := rfl
@[simp] theorem params_b64IgnoreCrlf : params.b64IgnoreCrlf = false := rfl
@[simp] theorem params_b64StrictTrailing : params.b64StrictTrailing = false := rfl

/-- The registers of slot `i` read as the slot holds them (R27). -/
theorem readRegister_slot (p : Config.Params) (s : State) (i : Nat) (h : i < p.nlegMax) :
    readRegister p s (16 + 2 * i) = (s.slot i).tagLen.setWidth 32 ∧
    readRegister p s (17 + 2 * i) = (s.slot i).keyLen.setWidth 32 := by
  have hi : (16 + 2 * i - 16) / 2 = i ∧ (17 + 2 * i - 16) / 2 = i := by omega
  constructor <;> unfold readRegister <;> iterate 7 rw [if_neg (by omega)]
  · rw [if_pos (by omega), if_pos (by omega), hi.1]
  · rw [if_pos (by omega), if_neg (by omega), hi.2]

/-- A write of a register of slot `i` changes its field of that slot (R27). -/
theorem writeRegister_slot (p : Config.Params) (s : State) (i : Nat) (v : Word) (h : i < p.nlegMax) :
    writeRegister p s (16 + 2 * i) v = s.setSlot i (fun e => { e with tagLen := v.setWidth 8 }) ∧
    writeRegister p s (17 + 2 * i) v = s.setSlot i (fun e => { e with keyLen := v.setWidth 16 }) := by
  have hi : (16 + 2 * i - 16) / 2 = i ∧ (17 + 2 * i - 16) / 2 = i := by omega
  constructor <;> unfold writeRegister <;> iterate 5 rw [if_neg (by omega)]
  · rw [if_pos (by omega), if_pos (by omega), hi.1]
  · rw [if_pos (by omega), if_neg (by omega), hi.2]

end Sys2Proof.Machine
end

