-- ==== Sys2Proof/Laws/Step.lean ====
section
/-!
SUPPORT. What a step can do, said once: which event it carries out, which instruction that runs, and how runs compose.
-/

namespace Sys2Proof.Machine

/-! ### The host's accesses while a command runs (R380) -/

theorem hostWriteReg_busy (p : Config.Params) (s : State) (n : Nat) (v : Word) (h : s.stBusy = true) :
    hostWriteReg p s n v = s := by simp [hostWriteReg, h]

theorem hostWriteBuf_busy (p : Config.Params) (s : State) (space off : Nat) (b : Byte) (h : s.stBusy = true) :
    hostWriteBuf p s space off b = s := by simp [hostWriteBuf, h]

theorem hostReadReg_busy (p : Config.Params) (s : State) (n : Nat) (h : s.stBusy = true) (hn : n ≠ 1) :
    hostReadReg p s n = 0#32 := by simp [hostReadReg, h, hn]

theorem hostReadBuf_busy (p : Config.Params) (s : State) (space off : Nat) (h : s.stBusy = true) :
    hostReadBuf p s space off = 0#8 := by simp [hostReadBuf, h]

/-- Everything a host register write can do. -/
theorem hostWriteReg_cases (p : Config.Params) (s : State) (n : Nat) (v : Word) :
    hostWriteReg p s n v = s ∨ (s.stBusy = false ∧ n = 0 ∧ hostWriteReg p s n v = s.accept v) ∨
    (s.stBusy = false ∧ ∃ il cl ml nl, hostWriteReg p s n v =
      { s with inLen := il, sCurTagLen := cl, sMkeyLen := ml, sNleg := nl }) ∨
    (s.stBusy = false ∧ ∃ (i : Nat) (tl : Option (BitVec 8)) (kl : Option (BitVec 16)), hostWriteReg p s n v =
      s.setSlot i (fun e => { e with tagLen := tl.getD e.tagLen, keyLen := kl.getD e.keyLen })) := by
  by_cases hb : s.stBusy = true
  · exact .inl (hostWriteReg_busy p s n v hb)
  have hf : s.stBusy = false := by simpa using hb
  have hw : hostWriteReg p s n v = writeRegister p s n v := by rw [hostWriteReg, if_neg hb]
  generalize hostWriteReg p s n v = u at hw ⊢
  unfold writeRegister at hw
  split_ifs at hw with h0 h3 h5 h6 h7 h16 he <;> subst hw
  · exact .inr (.inl ⟨hf, h0, rfl⟩)
  · exact .inr (.inr (.inl ⟨hf, v, s.sCurTagLen, s.sMkeyLen, s.sNleg, rfl⟩))
  · exact .inr (.inr (.inl ⟨hf, s.inLen, _, s.sMkeyLen, s.sNleg, rfl⟩))
  · exact .inr (.inr (.inl ⟨hf, s.inLen, s.sCurTagLen, _, s.sNleg, rfl⟩))
  · exact .inr (.inr (.inl ⟨hf, s.inLen, s.sCurTagLen, s.sMkeyLen, _, rfl⟩))
  · exact .inr (.inr (.inr ⟨hf, _, some _, none, rfl⟩))
  · exact .inr (.inr (.inr ⟨hf, _, none, some _, rfl⟩))
  · exact .inl rfl

/-- Everything a host byte write can do: store one byte in one of the six kinds of writable space, inside its size. -/
theorem hostWriteBuf_cases (p : Config.Params) (s : State) (space off : Nat) (b : Byte) :
    hostWriteBuf p s space off b = s ∨ s.stBusy = false ∧
    ((off < p.inMax ∧ hostWriteBuf p s space off b = { s with inbuf := s.inbuf.write off b }) ∨
     (off < 6 ∧ hostWriteBuf p s space off b = { s with vtag := s.vtag.write off b }) ∨
     (off < p.stagMax ∧ hostWriteBuf p s space off b = { s with sCurTag := s.sCurTag.write off b }) ∨
     (off < p.mkeyMax ∧ hostWriteBuf p s space off b = { s with sMkey := s.sMkey.write off b }) ∨
     (off < p.stagMax ∧ ∃ i, hostWriteBuf p s space off b = s.setSlot i (fun e => { e with tag := e.tag.write off b })) ∨
     (off < p.lkeyMax ∧ ∃ i, hostWriteBuf p s space off b = s.setSlot i (fun e => { e with key := e.key.write off b }))) := by
  by_cases hb : s.stBusy = true
  · exact .inl (hostWriteBuf_busy p s space off b hb)
  have hf : s.stBusy = false := by simpa using hb
  have hw : hostWriteBuf p s space off b = writeBuffer p s space off b := by rw [hostWriteBuf, if_neg hb]
  generalize hostWriteBuf p s space off b = u at hw ⊢
  unfold writeBuffer at hw
  split_ifs at hw with h1 h3 h4 h5 h16 he ho ho <;> subst hw
  · exact .inr ⟨hf, .inl ⟨h1.2, rfl⟩⟩
  · exact .inr ⟨hf, .inr (.inl ⟨h3.2, rfl⟩)⟩
  · exact .inr ⟨hf, .inr (.inr (.inl ⟨h4.2, rfl⟩))⟩
  · exact .inr ⟨hf, .inr (.inr (.inr (.inl ⟨h5.2, rfl⟩)))⟩
  · exact .inr ⟨hf, .inr (.inr (.inr (.inr (.inl ⟨ho, _, rfl⟩))))⟩
  · exact .inl rfl
  · exact .inr ⟨hf, .inr (.inr (.inr (.inr (.inr ⟨ho, _, rfl⟩))))⟩
  · exact .inl rfl
  · exact .inl rfl

/-! ### A step -/

theorem consume_next_iff (o : Host.Outcome State Fault Refusal) (t : State) :
    consume o = .next t ↔ ∃ u, o = .next u ∧ t = { u with agenda := u.agenda.tail } := by
  cases o <;> simp [consume, eq_comm]

theorem engineStep_next_iff (run : Instr → State → Answer) (s t : State) :
    engineStep run s = .next t ↔ ∃ i, decodePhase s.phase = some i ∧ run i s = .next t := by
  unfold engineStep
  cases decodePhase s.phase <;> simp

theorem commandStep_next_iff (run : Instr → State → Answer) (w : Word) (s t : State) :
    commandStep run w s = .next t ↔
      (∃ i, decodeCommand w = .ok i ∧ run i s = .next t) ∨
      (∃ r, decodeCommand w = .error r ∧ t = illegalCommand s w r) := by
  unfold commandStep
  cases decodeCommand w <;> simp [eq_comm]

/-- Everything a step that goes on can be, whatever the parameters: one phase of the engine with nothing on the agenda, or the
first event of the agenda, which then leaves it. -/
theorem agendaStep_cases (p : Config.Params) (run : Instr → State → Answer) (s t : State)
    (h : agendaStep p run s = .next t) :
    (s.agenda = [] ∧ engineStep run s = .next t) ∨
    (∃ e rest u, s.agenda = e :: rest ∧ eventStep p run e s = .next u ∧ t = { u with agenda := u.agenda.tail }) := by
  unfold agendaStep at h
  split at h
  · exact .inl ⟨‹_›, h⟩
  · obtain ⟨u, hu, ht⟩ := (consume_next_iff _ _).mp h
    exact .inr ⟨_, _, u, ‹_›, hu, ht⟩

/-- Everything a step that goes on can be. -/
theorem step_cases (s t : State) (h : step s = .next t) :
    (s.agenda = [] ∧ engineStep exec s = .next t) ∨
    (∃ e rest u, s.agenda = e :: rest ∧ eventStep params exec e s = .next u ∧ t = { u with agenda := u.agenda.tail }) :=
  agendaStep_cases params exec s t h

/-- What the event of a step can be, with the instruction it runs or the state it leaves. -/
inductive EventCase (p : Config.Params) (run : Instr → State → Answer) (s : State) : HostEvent → State → Prop where
  | engine (a u) : engineStep run s = .next u → EventCase p run s (.engine a) u
  | command (w a u) : commandStep run w s = .next u → EventCase p run s (.command w a) u
  | readReg (n) : EventCase p run s (.readReg n) { s with hostData := hostReadReg p s n }
  | writeReg (n v) : EventCase p run s (.writeReg n v) (hostWriteReg p s n v)
  | readBuf (space off) :
    EventCase p run s (.readBuf space off) { s with hostData := (hostReadBuf p s space off).setWidth 32 }
  | writeBuf (space off b) : EventCase p run s (.writeBuf space off b) (hostWriteBuf p s space off b)
  | readResult :
    EventCase p run s .readResult { s with agenda := .readResult :: (resultReads s.hostData.toNat ++ s.agenda.tail) }
  | reset : EventCase p run s .reset (s.afterReset p)

theorem eventStep_cases (p : Config.Params) (run : Instr → State → Answer) (e : HostEvent) (s u : State)
    (h : eventStep p run e s = .next u) : EventCase p run s e u := by
  cases e with
  | engine a => exact .engine a u h
  | command w a => exact .command w a u h
  | readReg n => injection h with h; exact h ▸ .readReg n
  | writeReg n v => injection h with h; exact h ▸ .writeReg n v
  | readBuf space off => injection h with h; exact h ▸ .readBuf space off
  | writeBuf space off b => injection h with h; exact h ▸ .writeBuf space off b
  | readResult => injection h with h; exact h ▸ .readResult
  | reset => injection h with h; exact h ▸ .reset

/-! ### Runs -/

theorem run_succ (M : Host.Core) (k : Nat) (s t : M.State) (h : M.step s = .next t) : M.run (k + 1) s = M.run k t := by
  rw [Host.Core.run, h]

/-- A run that goes on took a first step that went on. -/
theorem run_succ_inv (M : Host.Core) (k : Nat) (s t : M.State) (h : M.run (k + 1) s = .next t) :
    ∃ u, M.step s = .next u ∧ M.run k u = .next t := by
  rw [Host.Core.run] at h
  cases hs : M.step s with
  | next u => rw [hs] at h; exact ⟨u, rfl, h⟩
  | fault r => rw [hs] at h; injection h
  | refused r => rw [hs] at h; injection h

/-- A run of `j + k` steps is a run of `j` steps and then one of `k`. -/
theorem run_add (M : Host.Core) (j k : Nat) (s t : M.State) (h : M.run j s = .next t) : M.run (j + k) s = M.run k t := by
  induction j generalizing s with
  | zero =>
    injection h with h
    rw [Nat.zero_add, h]
  | succ j ih =>
    obtain ⟨u, hs, hu⟩ := run_succ_inv M j s t h
    rw [Nat.add_right_comm, run_succ M _ s u hs, ih u hu]

end Sys2Proof.Machine
end

