-- ==== Sys2Proof/Tests/Slice0.lean ====
section
/-!
SUPPORT. Tests. Every expected value is copied from the spec's text or its vectors (the id stands in the comment), none from
the model. The second half holds, for each statement of `Certificates/Slice0/Obligations.lean` with hypotheses, a witness:
states and operands that meet them, clause by clause and at the edges of the ranges.
-/

namespace Sys2Proof.Tests

open Sys2Proof.Machine

/-! ### Helpers -/

/-- `n` bytes, written as the hexadecimal number the spec's vectors print, first byte first. -/
def bytes (n v : Nat) : ByteString := (List.range n).map (fun i => BitVec.ofNat 8 (v / 256 ^ (n - 1 - i)))

/-- A 16-byte register. -/
def reg16 (v : Nat) : Bytes 16 := ⟨bytes 16 v, by simp [bytes]⟩

/-- A 32-byte register. -/
def reg32 (v : Nat) : Bytes 32 := ⟨bytes 32 v, by simp [bytes]⟩

/-- A tag. -/
def tag6 (v : Nat) : Bytes 6 := ⟨bytes 6 v, by simp [bytes]⟩

/-- The state an instruction leaves. -/
def after (i : Instr) (s : State) : Option State :=
  match exec i s with
  | .next t => some t
  | _ => none

/-- The state a step leaves. -/
def next (s : State) : Option State :=
  match step s with
  | .next t => some t
  | _ => none

/-- `MK`: the 44 ASCII bytes of the end-to-end scenario (S7). -/
def mk : ByteString := bytes 44 0x6c6d4e34647450796543357232394459424c6c3050304f6f41344166792f32556e4367307a642b684868673d

/-- `"QFTECH"` (R11). -/
def qftech : Bytes 6 := tag6 0x514654454348

/-- `IVA` (the vectors' conventions). -/
def iva : Bytes 16 := reg16 0x000102030405060708090a0b0c0d0e0f

/-- `DKEY` of V-K1. -/
def dkeyK1 : Bytes 32 := reg32 0x3680e7e16559058849e6fd6e7ba6dadf649080b712b6639d2ebc6a0e4003e1e6

/-- `"legacykey"` (R281). -/
def legacykey : ByteString := bytes 9 0x6c65676163796b6579

/-- `CFG0` after its commit, with a given master key and legacy table. -/
def configured (mkey : ByteString) (legacy : List LegacyEntry) : State :=
  { State.reset with cfg := { valid := true, curTag := qftech, mkey := mkey, legacy := legacy } }

/-- `CFG0`. -/
def cfg0 : State := configured mk []

/-- `CFGZ`. -/
def cfgz : State := configured mk [{ tag := Config.reservedTag, key := legacykey }]

/-- The state with a text operand. -/
def State.withInput (s : State) (v : ByteString) : State :=
  { s with inbuf := Memory.ofBytes 0 v, inLen := BitVec.ofNat 32 v.length }

/-- The state with a value in WORK. -/
def State.withWork (s : State) (v : ByteString) : State := { s with wk.work := v }

/-- `HW` (the vectors' conventions): ENCRYPT of `"hello world"` under `CFG0` with `IVA`. -/
def hw : ByteString :=
  bytes 50 0x51465445434841414543417751464267634943516f4c4441304f442f73684234656f6d47706f6268644839664a6c3134773d

/-- The base64 part of `HW`. -/
def hwText : ByteString :=
  bytes 44 0x41414543417751464267634943516f4c4441304f442f73684234656f6d47706f6268644839664a6c3134773d

/-- `LA` (the vectors' conventions): the legacy fixture. -/
def la : ByteString :=
  bytes 44 0x2b762b376443536c4734777a303835715a61424d2f79525270574761505368684a51474d6b45554d4f665564

/-- `"hello world"`. -/
def hello : ByteString :=
  bytes 11 0x68656c6c6f20776f726c64

/-- Its size-padded block (R170). -/
def padded : ByteString :=
  bytes 16 0x68656c6c6f20776f726c640505050505

/-- The cipher bytes of `HW` (R238). -/
def cipher : ByteString :=
  bytes 16 0xfb210787a8986a686e1747f5f265d78c

/-- The decoded prefix of `LA` (R291). -/
def legacyCipher : ByteString :=
  bytes 32 0xfaffbb7424a51b8c33d3ce6a65a04cff2451a5619a3d286125018c90450c39f5

/-! ### Well-formedness: an ill-formed code for each check, and the edges of each check -/

/-- R93: OPC 0, 4 and 255 are not operation codes; the other two checks accept the words. -/
theorem test_wellFormed_opcode_refuses :
    ¬ (Code.command 0x00000000#32).WellFormed ∧ ¬ WellFormed.opcode 0x00000000#32 ∧
      ¬ WellFormed.opcode 0x00000004#32 ∧
    ¬ WellFormed.opcode 0x000000ff#32 ∧ WellFormed.reservedBits 0x00000004#32 ∧
      WellFormed.noOverrideOnConfig 0x00000004#32 :=
  ⟨fun h => absurd h.1 (by decide), by decide, by decide, by decide, by decide, by decide⟩

/-- V-E10, V-E11: bit 9 and bit 31 are reserved; the other two checks accept the words. -/
theorem test_wellFormed_reservedBits_refuses :
    ¬ (Code.command 0x00000202#32).WellFormed ∧ ¬ WellFormed.reservedBits 0x00000202#32 ∧
    ¬ WellFormed.reservedBits 0x80000003#32 ∧ WellFormed.opcode 0x00000202#32 ∧
      WellFormed.noOverrideOnConfig 0x00000202#32 :=
  ⟨fun h => absurd h.2.1 (by decide), by decide, by decide, by decide, by decide⟩

/-- V-E9: V on CONFIG; the other two checks accept the word, and V on ENCRYPT is well formed. -/
theorem test_wellFormed_noOverrideOnConfig_refuses :
    ¬ (Code.command 0x00000101#32).WellFormed ∧ ¬ WellFormed.noOverrideOnConfig 0x00000101#32 ∧
      WellFormed.opcode 0x00000101#32 ∧
    WellFormed.reservedBits 0x00000101#32 ∧ WellFormed.noOverrideOnConfig 0x00000102#32 :=
  ⟨fun h => absurd h.2.2 (by decide), by decide, by decide, by decide, by decide⟩

/-- R96: 27 is the last phase code, 28 to 31 are reserved. -/
theorem test_wellFormed_phaseCode_refuses :
    WellFormed.phaseCode 27#5 ∧ ¬ WellFormed.phaseCode 28#5 ∧ ¬ WellFormed.phaseCode 31#5 := by decide

/-! ### Decoding: a code written out from R92 or R96 for every instruction -/

/-- R92. -/
theorem test_decode_commands :
    decodeTableWord 32 0x00000001 = some .config ∧ decodeTableWord 32 0x00000002 = some .encrypt ∧
    decodeTableWord 32 0x00000102 = some .encryptV ∧ decodeTableWord 32 0x00000003 = some .decrypt ∧
    decodeTableWord 32 0x00000103 = some .decryptV := by decide

/-- R96, binary column. -/
theorem test_decode_shared_and_config :
    decodeTableWord 8 0b00000 = some .idle ∧ decodeTableWord 8 0b00001 = some .decode ∧
    decodeTableWord 8 0b00010 = some .cCheck ∧ decodeTableWord 8 0b00011 = some .cCommit := by decide

/-- R96, binary column. -/
theorem test_decode_encrypt_phases :
    decodeTableWord 8 0b00100 = some .eCheck ∧ decodeTableWord 8 0b00101 = some .rng ∧
    decodeTableWord 8 0b01001 = some .pad ∧ decodeTableWord 8 0b01010 = some .cbce ∧
    decodeTableWord 8 0b01011 = some .b64e ∧ decodeTableWord 8 0b01100 = some .tagput := by decide

/-- R96, binary column. -/
theorem test_decode_kdf_phases :
    decodeTableWord 8 0b00110 = some .kdfInit ∧ decodeTableWord 8 0b00111 = some .kdfIter ∧
    decodeTableWord 8 0b01000 = some .kdfDone := by decide

/-- R96, binary column. -/
theorem test_decode_decrypt_phases :
    decodeTableWord 8 0b01101 = some .dCheck ∧ decodeTableWord 8 0b01110 = some .tagsplit ∧
    decodeTableWord 8 0b01111 = some .select ∧ decodeTableWord 8 0b10000 = some .dKeychk ∧
    decodeTableWord 8 0b10001 = some .b64d ∧ decodeTableWord 8 0b10010 = some .ivsplit ∧
    decodeTableWord 8 0b10011 = some .cbcd ∧ decodeTableWord 8 0b10100 = some .unpad := by decide

/-- R96, binary column. -/
theorem test_decode_legacy_phases :
    decodeTableWord 8 0b10101 = some .lKeyfit ∧ decodeTableWord 8 0b10110 = some .lB64d ∧
    decodeTableWord 8 0b10111 = some .lSplit ∧ decodeTableWord 8 0b11000 = some .lCbcd ∧
    decodeTableWord 8 0b11001 = some .lTrunc := by decide

/-- R96, binary column. -/
theorem test_decode_end_phases :
    decodeTableWord 8 0b11010 = some .finish ∧ decodeTableWord 8 0b11011 = some .fail := by decide

/-- R93, V-E9 to V-E13: BAD_OPC comes before BAD_BITS. -/
theorem test_decode_rejects_by_name :
    decodeCommand 0x00000000#32 = .error .badOpc ∧ decodeCommand 0x00000200#32 = .error .badOpc ∧
    decodeCommand 0xffffffff#32 = .error .badOpc ∧ decodeCommand 0x00000101#32 = .error .badBits ∧
    decodeCommand 0x00000202#32 = .error .badBits ∧ decodeCommand 0x80000003#32 = .error .badBits ∧
    decodePhase 28#5 = none ∧ decodePhase 31#5 = none := ⟨rfl, rfl, rfl, rfl, rfl, rfl, rfl, rfl⟩

/-! ### Primitives: the published vectors of file 48 -/

/-- V-F1 to V-F4, V-F7. -/
theorem test_base64_encode :
    b64Encode [] = [] ∧ b64Encode (bytes 1 0x66) = bytes 4 0x5a673d3d ∧
      b64Encode (bytes 2 0x666f) = bytes 4 0x5a6d383d ∧
    b64Encode (bytes 3 0x666f6f) = bytes 4 0x5a6d3976 ∧ b64Encode (bytes 2 0xfbff) = bytes 4 0x2b2f383d :=
  by decide

/-- V-F8 to V-F13, V-F16 to V-F22. -/
theorem test_base64_decode :
    b64Groups false [] = some [] ∧ b64Groups false (bytes 4 0x5a673d3d) = some (bytes 1 0x66) ∧
      b64Groups false (bytes 4 0x5a683d3d) = some (bytes 1 0x66) ∧
    b64Groups false (bytes 4 0x5a6d393d) = some (bytes 2 0x666f) ∧
    b64Groups false (bytes 4 0x5a3d3d3d) = none ∧
    b64Groups false (bytes 4 0x3d3d3d3d) = none ∧
    b64Groups false (bytes 4 0x5a673d76) = none ∧
    b64Groups false (bytes 8 0x5a673d3d5a673d3d) = none ∧
    b64Groups false (bytes 4 0x2d5f2d5f) = none ∧
    b64Groups true (bytes 4 0x5a683d3d) = none := by decide

/-- V-P5: aligned input gets a whole block. -/
theorem test_spad_aligned : spad (zeros 16) = zeros 16 ++ bytes 16 0x10101010101010101010101010101010 := by decide

/-- V-P20. -/
theorem test_zpad_both_settings :
    zpad params (zeros 16) = zeros 16 ∧ zpad { params with zpadAlignedAddsBlock := true } (zeros 16) = zeros 32 :=
  by decide

/-- V-L10 to V-L16: the three sizes at their edges, with zeros behind the key. -/
theorem test_keyfit :
    (keyfit [] = .ok (zeros 16)) ∧
      (keyfit (bytes 17 0xaaaaaaaaaaaaaaaaaaaaaaaaaaaaaaaaaa) =
      .ok (bytes 17 0xaaaaaaaaaaaaaaaaaaaaaaaaaaaaaaaaaa ++ zeros 7)) ∧
    (keyfit (List.replicate 24 0xaa#8) = .ok (List.replicate 24 0xaa#8)) ∧
    (keyfit (List.replicate 25 0xaa#8) = .ok (List.replicate 25 0xaa#8 ++ zeros 7)) ∧
    (keyfit (List.replicate 33 0xaa#8) = .error .legacyKeyTooLong) := ⟨rfl, rfl, rfl, rfl, rfl⟩

/-! ### The host's side -/

/-- V-H1: STATUS and every register read 0. -/
theorem test_reset_reads_zero :
    State.reset.status = 0#32 ∧ ∀ n < 40, hostReadReg params State.reset n = 0#32 := by decide

/-- V-H10: writes of STATUS, OUT_LEN, OUTBUF and a reserved register are ignored. -/
theorem test_ignored_writes :
    hostWriteReg params cfg0 1 0xffffffff#32 = cfg0 ∧ hostWriteReg params cfg0 4 7#32 = cfg0 ∧
    hostWriteBuf params cfg0 2 0 0xff#8 = cfg0 ∧ hostWriteReg params cfg0 9 1#32 = cfg0 := by decide

/-- R27: S_MKEY_LEN keeps 16 bits, S_LTAG_LEN[7] (register 30) 8. -/
theorem test_narrow_register :
    hostReadReg params (hostWriteReg params cfg0 6 0x12345678#32) 6 = 0x5678#32 ∧
    hostReadReg params (hostWriteReg params cfg0 30 0x12345678#32) 30 = 0x78#32 := by decide

/-- V-H9: a staged key byte is stored and reads 00. -/
theorem test_staging_is_write_only :
    (hostWriteBuf params cfg0 5 255 0xab#8).sMkey = [(255, 0xab#8)] ∧
    hostReadBuf params (hostWriteBuf params cfg0 5 255 0xab#8) 5 255 = 0x00#8 ∧
      hostWriteBuf params cfg0 5 256 0xab#8 = cfg0 := by decide

/-- V-H5: while BUSY a write is ignored, a read returns 0, STATUS reads 0x00000709 in KDF_ITER. -/
theorem test_busy_window :
    let s : State := { cfg0 with stBusy := true, phase := 7#5, outLen := 9#32 }
    hostWriteReg params s 3 3#32 = s ∧ hostWriteReg params s 0 1#32 = s ∧ hostReadReg params s 4 = 0#32 ∧
    hostReadReg params s 1 = 0x00000709#32 := by decide

/-- V-H3: reset takes the Config away. -/
theorem test_reset_event_clears :
    (next { cfg0 with agenda := [.reset] }).map (fun t => (t.cfg.valid, t.cfg.mkey, t.agenda)) = some (false, [], []) :=
  by decide

/-- P4: after the CMD write STATUS reads 0x00000109. -/
theorem test_cmd_write_starts_decode :
    (next { cfg0 with agenda := [.writeReg 0 2#32] }).map (fun t => (t.status, t.cmdReg)) = some (0x00000109#32, 2#32) :=
  by decide

/-- E_CHECK as the first instruction after reset: IN_LEN 0 passes, no Config: NotConfigured. -/
theorem test_withFetchWord_phase :
    (next (State.reset.withFetchWord 8 4)).map (fun t => (t.phase, t.wk.raisedCode)) = some (27#5, 0x08#8) :=
  by decide

/-- V-H2 with V set: a whole ENCRYPT.V as the first instruction after reset. -/
theorem test_withFetchWord_command :
    (next (State.reset.withFetchWord 32 0x102)).map (fun t => (t.status, t.errCode, t.cmdReg)) =
      some (0x00000006#32, 0x08#8, 0x102#32) := by decide

/-- R96: PHASE never takes 28; the model stops there (log 11). -/
theorem test_reserved_phase_stops : step { State.reset with phase := 28#5 } = .fault .reservedPhase := rfl

/-! ### The phases every command shares -/

/-- R24. -/
theorem test_idle : after .idle cfg0 = some cfg0 := by decide

/-- V-E9. -/
theorem test_decode_bad_bits :
    (after .decode { cfg0 with cmdReg := 0x00000101#32 }).map (fun t => (t.phase, t.wk.raisedCode)) =
      some (27#5, 0x29#8) := by decide

/-- V-E12. -/
theorem test_decode_opc_before_bits :
    (after .decode { cfg0 with cmdReg := 0xffffffff#32 }).map (fun t => (t.phase, t.wk.raisedCode)) =
      some (27#5, 0x19#8) := by decide

/-- V-N1's end: OUT_LEN, the bytes, 00 after them, STATUS. -/
theorem test_finish :
    let s := State.withWork { cfg0 with cmdReg := 2#32, stBusy := true, phase := 26#5, outbuf := [(60, 0xff#8)] } hw
    (after .finish s).map (fun t => (t.outLen, t.outbuf.readBytes 0 50, t.outbuf.read 60, t.status)) =
      some (50#32, hw, 0x00#8, 0x0000000a#32) := by decide

/-- R345: the result of CONFIG is empty, whatever WORK holds. -/
theorem test_finish_config :
    (after .finish (State.withWork { cfg0 with cmdReg := 1#32 } [7#8])).map (fun t => (t.outLen, t.outbuf)) =
      some (0#32, []) := by decide

/-- P4, line 2: STATUS 0x0000001E, ERRCODE 0x33, OUT_LEN 0, OUTBUF all 00. -/
theorem test_fail :
    let s : State := { cfg0 with
      stBusy := true, stPath := .current, phase := 27#5, outLen := 70#32, outbuf := [(0, 0x51#8)], wk.raisedCode := 0x33#8 }
    (after .fail s).map (fun t => (t.status, t.errCode, t.outLen, t.outbuf)) =
      some (0x0000001e#32, 0x33#8, 0#32, []) := by decide

/-! ### CONFIG -/

/-- A staging area: current tag, master key, and the legacy entries of the first slots. -/
def staged (cur mkey : ByteString) (legacy : List (ByteString × ByteString)) : State :=
  { State.reset with
    sCurTagLen := BitVec.ofNat 8 cur.length, sCurTag := Memory.ofBytes 0 cur
    sMkeyLen := BitVec.ofNat 16 mkey.length, sMkey := Memory.ofBytes 0 mkey
    sNleg := BitVec.ofNat 8 legacy.length
    staged := legacy.map (fun e => {
      tagLen := BitVec.ofNat 8 e.1.length, keyLen := BitVec.ofNat 16 e.2.length
      tag := Memory.ofBytes 0 e.1, key := Memory.ofBytes 0 e.2 }) ++ List.replicate (8 - legacy.length) StagedEntry.reset }

/-- V-C1: the source's three-byte tag. -/
theorem test_config_short_tag :
    (after .config (staged (bytes 3 0x414243) mk [])).map (fun t => (t.errCode, t.status, t.cfg)) =
      some (0x11#8, 0x00000006#32, CommittedConfig.reset) := by decide

/-- P2, line 3. -/
theorem test_config_commits :
    (after .config (staged (bytes 6 0x4e4557544147) mk [(bytes 6 0x5a65726f5665, legacykey)])).map (fun t => (t.status, t.cfg)) =
      some (0x0000000a#32, ⟨true, tag6 0x4e4557544147, mk, [⟨Config.reservedTag, legacykey⟩]⟩) := by decide

/-- V-C14. -/
theorem test_cCheck_capacity_first :
    (after .cCheck { staged (bytes 3 0x414243) [] [] with sMkeyLen := 257#16 }).map (fun t => (t.phase, t.wk.raisedCode)) =
      some (27#5, 0x39#8) := by decide

/-- V-C6: the current tag is checked first; V-C7: any legacy tag may fail. -/
theorem test_cCheck_order :
    (after .cCheck (staged (bytes 3 0x514654) [] [(bytes 4 0x5a45524f, bytes 1 0x78)])).map (·.wk.raisedCode) =
      some 0x11#8 ∧
    (after .cCheck (staged (bytes 6 0x514654454348) [] [(bytes 6 0x5a65726f5665, bytes 1 0x61), (bytes 5 0x5441473035, bytes 1 0x62)])).map (·.wk.raisedCode)
      = some 0x21#8 := by decide

/-- V-C12: the higher of two ZeroVe entries. -/
theorem test_cCommit_highest_index :
    (after .cCommit (staged (bytes 6 0x514654454348) mk [(bytes 6 0x5a65726f5665, bytes 8 0x77726f6e676b6579), (bytes 6 0x5a65726f5665, legacykey)])).map
      (fun t => (t.cfg.legacy.length, t.zeroVeKey)) = some (2, some legacykey) := by decide

/-! ### ENCRYPT -/

/-- V-N9: KeyTooShort, and no draw. -/
theorem test_encrypt_short_key :
    (after .encrypt (State.withInput (configured (zeros 31) []) [0x78#8])).map (fun t => (t.errCode, t.status, t.draws)) =
      some (0x02#8, 0x0000000e#32, 0) := by decide

/-- V-N10. -/
theorem test_encrypt_not_configured :
    (after .encrypt (State.withInput State.reset [0x78#8])).map (fun t => (t.errCode, t.status)) =
      some (0x08#8, 0x00000006#32) := by decide

/-- V-N12 for the .V form: BAD_LEN precedes NotConfigured. -/
theorem test_encryptV_length_first :
    (after .encryptV { State.reset with inLen := 65536#32 }).map (fun t => (t.errCode, t.status, t.cmdReg)) =
      some (0x39#8, 0x00000006#32, 0x00000102#32) := by decide

/-- V-N8, V-N11: a 32-byte key passes, IN_MAX passes, IN_MAX + 1 does not. -/
theorem test_eCheck_edges :
    (after .eCheck { configured (zeros 32) [] with inLen := 65535#32 }).map (·.phase) = some 5#5 ∧
    (after .eCheck { cfg0 with inLen := 65536#32 }).map (·.wk.raisedCode) = some 0x39#8 := by decide

/-- R232: the answer of the random source that the event names. -/
theorem test_rng :
    (after .rng { cfg0 with agenda := [.engine (some iva), .engine (some (reg16 1))] }).map (fun t => (t.wk.ivr, t.phase, t.draws)) =
      some (iva, 6#5, 1) := by decide

/-- R157: PAD in ENCRYPT.V, CBCD in DECRYPT.V. -/
theorem test_kdfDone :
    (after .kdfDone { cfg0 with cmdReg := 0x102#32, wk.kdfT := dkeyK1 }).map (fun t => (t.wk.dkey, t.phase)) =
      some (dkeyK1, 9#5) ∧
    (after .kdfDone { cfg0 with cmdReg := 0x103#32, wk.kdfT := dkeyK1 }).map (fun t => (t.wk.dkey, t.phase)) =
      some (dkeyK1, 19#5) := by decide

/-- V-P3. -/
theorem test_pad : (after .pad (State.withInput cfg0 hello)).map (·.wk.work) = some padded := by decide

/-- V-F6. -/
theorem test_b64e :
    (after .b64e (State.withWork { cfg0 with wk.ivr := iva } cipher)).map (·.wk.work) =
      some hwText := by decide

/-- V-F23. -/
theorem test_tagput :
    (after .tagput (State.withWork { cfg0 with cmdReg := 2#32 } hwText)).map (·.wk.work) = some hw := by decide

/-- V-N6: the override. -/
theorem test_tagputV :
    (after .tagput { cfg0 with cmdReg := 0x102#32, vtag := Memory.ofBytes 0 (bytes 6 0x4f4c444b4559) }).map (·.wk.work) =
      some (bytes 6 0x4f4c444b4559) := by decide

/-! ### DECRYPT -/

/-- V-S6: the string's tag stands in the legacy table and does not help. -/
theorem test_decrypt_unsupported :
    (after .decrypt (State.withInput (configured mk [⟨tag6 0x4f4c44544147, legacykey⟩]) (bytes 6 0x4f4c44544147))).map
      (fun t => (t.status, t.errCode)) = some (0x0000000e#32, 0x05#8) := by decide

/-- V-S10: with an override the current tag plays no part. -/
theorem test_decryptV_override :
    (after .decryptV { State.withInput cfg0 hw with vtag := Memory.ofBytes 0 (bytes 6 0x4f4c444b4559) }).map
      (fun t => (t.status, t.errCode)) = some (0x0000000e#32, 0x05#8) := by decide

/-- V-S13: sent to the current path, refused there. -/
theorem test_decryptV_collision :
    (after .decryptV { State.withInput cfgz la with vtag := Memory.ofBytes 0 (bytes 6 0x2b762b376443) }).map
      (fun t => (t.status, t.errCode, t.cmdReg)) = some (0x0000001e#32, 0x23#8, 0x103#32) := by decide

/-- V-D19, V-D20. -/
theorem test_dCheck :
    (after .dCheck State.reset).map (·.wk.raisedCode) = some 0x08#8 ∧
    (after .dCheck { State.reset with inLen := 65536#32 }).map (·.wk.raisedCode) = some 0x39#8 := by decide

/-- V-F24, V-F25: `HW`, and a string of five bytes. -/
theorem test_tagsplit :
    (after .tagsplit (State.withInput cfg0 hw)).map (fun t => (t.wk.tagr, t.phase)) = some (qftech, 15#5) ∧
    (after .tagsplit (State.withInput cfg0 (bytes 5 0x5146544543))).map (·.wk.raisedCode) = some 0x13#8 :=
  by decide

/-- V-S2: a configured ZeroVe does not matter when the tag matches. -/
theorem test_select_current :
    (after .select { cfgz with cmdReg := 3#32, wk.tagr := qftech }).map (fun t => (t.stPath, t.phase)) =
      some (.current, 16#5) := by decide

/-- V-S12: the tag ZeroVe on the string, no override. -/
theorem test_select_legacy :
    (after .select { cfgz with cmdReg := 3#32, wk.tagr := Config.reservedTag }).map (fun t => (t.stPath, t.phase)) = some (.legacy, 21#5) :=
  by decide

/-- V-D18, and a key of exactly 32 bytes. -/
theorem test_dKeychk :
    (after .dKeychk (configured (bytes 5 0x73686f7274) [])).map (·.wk.raisedCode) = some 0x02#8 ∧
    (after .dKeychk (configured (zeros 32) [])).map (·.phase) = some 17#5 := by decide

/-- P1, phase trace of line 3. -/
theorem test_b64d :
    (after .b64d (State.withInput cfg0 hw)).map (fun t => (t.wk.work, t.phase)) =
      some (bytes 32 0x000102030405060708090a0b0c0d0e0ffb210787a8986a686e1747f5f265d78c, 18#5) := by decide

/-- V-D8a. -/
theorem test_b64d_refuses :
    (after .b64d (State.withInput cfg0 (bytes 10 0x51465445434821212121))).map (·.wk.raisedCode) = some 0x23#8 ∧
    (after .b64d (State.withInput cfg0 (bytes 9 0x514654454348414141))).map (·.wk.raisedCode) = some 0x23#8 :=
  by decide

/-- V-D6a, V-D7: 15 bytes are too few, 16 leave nothing. -/
theorem test_ivsplit :
    (after .ivsplit (State.withWork cfg0 (zeros 15))).map (·.wk.raisedCode) = some 0x33#8 ∧
    (after .ivsplit (State.withWork cfg0 iva.val)).map (fun t => (t.wk.ivr, t.wk.work, t.phase)) =
      some (iva, [], 6#5) := by decide

/-- V-B7, V-D8. -/
theorem test_cbcd_misaligned :
    (after .cbcd (State.withWork cfg0 (zeros 17))).map (·.wk.raisedCode) = some 0x16#8 := by decide

/-- V-P15: a count of 17 in a buffer of 32. -/
theorem test_unpad_above_a_block :
    (after .unpad (State.withWork cfg0 (List.replicate 31 0x41#8 ++ [0x11#8]))).map (·.wk.work) =
      some (List.replicate 15 0x41#8) := by decide

/-- V-P12, V-P14, V-P16. -/
theorem test_unpad_refuses :
    (after .unpad (State.withWork cfg0 (zeros 16))).map (·.wk.raisedCode) = some 0x04#8 ∧
    (after .unpad (State.withWork cfg0 (List.replicate 15 0x41#8 ++ [0x11#8]))).map (·.wk.raisedCode) =
      some 0x04#8 ∧
    (after .unpad (State.withWork cfg0 [])).map (·.wk.raisedCode) = some 0x26#8 := by decide

/-! ### The legacy path -/

/-- V-L11. -/
theorem test_lKeyfit :
    (after .lKeyfit cfgz).map (·.wk.lkfit) = some (bytes 16 0x6c65676163796b657900000000000000) := by decide

/-- V-L18. -/
theorem test_lKeyfit_too_long :
    (after .lKeyfit (configured mk [⟨Config.reservedTag, zeros 33⟩])).map (·.wk.raisedCode) = some 0x36#8 :=
  by decide

/-- V-L2: the entire string. -/
theorem test_lB64d :
    (after .lB64d (State.withInput cfgz (bytes 24 0x74302f3554472b32664f436f536d697571444f786951414c))).map (·.wk.work) =
      some (bytes 18 0xb74ff94c6fb67ce0a84a68aea833b189000b) := by decide

/-- V-L19. -/
theorem test_lB64d_refuses :
    (after .lB64d (State.withInput cfgz (bytes 12 0x2b762b376443536c2134777a))).map (·.wk.raisedCode) = some 0x23#8 :=
  by decide

/-- V-L2. -/
theorem test_lSplit :
    (after .lSplit (State.withWork cfgz (bytes 18 0xb74ff94c6fb67ce0a84a68aea833b189000b))).map
      (fun t => (t.wk.plen, t.wk.elen, t.wk.work)) = some (16, 11, bytes 16 0xb74ff94c6fb67ce0a84a68aea833b189) :=
  by decide

/-- V-L9: 2^64, not 0. -/
theorem test_lSplit_does_not_wrap :
    (after .lSplit (State.withWork cfgz (zeros 32 ++ [1#8] ++ zeros 8))).map (·.wk.elen) = some (2 ^ 64) :=
  by decide

/-- V-L7, V-L6: the whole prefix, and one byte more than it. -/
theorem test_lTrunc :
    (after .lTrunc (State.withWork { cfgz with wk.plen := 32, wk.elen := 32 } (zeros 32))).map (·.wk.work) =
      some (zeros 32) ∧
    (after .lTrunc (State.withWork { cfgz with wk.plen := 32, wk.elen := 33 } (zeros 32))).map (·.wk.raisedCode) = some 0x46#8 :=
  by decide

/-- R105, the line `DECRYPT in=s ver=v`: the accesses in their order, then STATUS, ERRCODE, OUT_LEN, the result. -/
theorem test_hostLine_decrypt :
    HostLine.expand (.decrypt [0x41#8, 0x42#8] (some (tag6 0x563030303032))) =
      [.writeBuf 1 0 0x41#8, .writeBuf 1 1 0x42#8, .writeReg 3 2#32,
        .writeBuf 3 0 0x56#8, .writeBuf 3 1 0x30#8, .writeBuf 3 2 0x30#8, .writeBuf 3 3 0x30#8, .writeBuf 3 4 0x30#8,
        .writeBuf 3 5 0x32#8, .command 0x00000103#32 none, .readReg 1, .readReg 2, .readReg 4, .readResult] := by decide

/-- R105, the line `CONFIG cur=c mkey=m leg t0=k0 leg t1=k1`, with empty strings but one byte of `t1` and one of `k0`. -/
theorem test_hostLine_config :
    HostLine.expand (.config [0x51#8] [] [([], [0x61#8]), ([0x5a#8], [])]) =
      [.writeReg 5 1#32, .writeBuf 4 0 0x51#8, .writeReg 6 0#32, .writeReg 7 2#32,
        .writeReg 16 0#32, .writeReg 17 1#32, .writeBuf 17 0 0x61#8,
        .writeReg 18 1#32, .writeBuf 18 0 0x5a#8, .writeReg 19 0#32,
        .command 0x00000001#32 none, .readReg 1, .readReg 2, .readReg 4, .readResult] := by decide

/-- R104: `iv=` is the draw of its own command: a line without it takes no later line's. -/
theorem test_hostLine_iv :
    (State.reset.withProgram [.encrypt [] none none, .encrypt [] none (some iva), .reset]).agenda =
      [.writeReg 3 0#32, .command 0x00000002#32 none, .readReg 1, .readReg 2, .readReg 4, .readResult,
        .writeReg 3 0#32, .command 0x00000002#32 (some iva), .readReg 1, .readReg 2, .readReg 4, .readResult,
        .reset] := by decide

/-- R105: `OUTBUF[0..OUT_LEN)`, byte by byte, after OUT_LEN was read as 3. -/
theorem test_readResult :
    (next { cfg0 with agenda := [.readResult, .reset], hostData := 3#32 }).map (·.agenda) =
      some [.readBuf 2 0, .readBuf 2 1, .readBuf 2 2, .reset] := by decide

/-- R10, R231: another capacity refuses another length, at the machine's step. -/
theorem test_stepWith_inMax :
    let p : Config.Params := { params with inMax := 64 }
    stepWith p iva { cfg0 with phase := 4#5, inLen := 64#32 } = .next { cfg0 with phase := 5#5, inLen := 64#32 } ∧
    stepWith p iva { cfg0 with phase := 4#5, inLen := 65#32 } =
      .next { cfg0 with phase := 27#5, inLen := 65#32, wk.raisedCode := 0x39#8 } := ⟨rfl, rfl⟩

/-- R10, R213: under B64_IGNORE_CRLF a line break inside the text is skipped. -/
theorem test_execWith_ignoreCrlf :
    let p : Config.Params := { params with b64IgnoreCrlf := true }
    let s := State.withInput cfg0 (bytes 6 0x51410d0a3d3d)
    execWith p iva .lB64d s = .next { s with wk.work := [0x40#8], phase := 23#5 } ∧
    execWith params iva .lB64d s = .next (s.raise .b64Invalid) := ⟨rfl, rfl⟩

/-! ### Witnesses: states and operands that meet the hypotheses of the statements -/

/-- A state whose next event is `e`. -/
def facing (e : HostEvent) : State := { cfg0 with agenda := [e] }

/-- A running machine: ENCRYPT accepted, the sequencer in DECODE. -/
def running : State := State.accept cfg0 0x00000002#32

/-- A running machine that runs one phase next, whatever phase. -/
def inPhase (c : BitVec 5) : State := { running with phase := c }

/-- A block cipher with the two inverse laws: the identity. -/
def plainCipher : Config.BlockCipher := { enc := fun _ x => x, dec := fun _ x => x }

theorem plainCipher_lawful : plainCipher.Lawful := fun _ _ _ => ⟨rfl, rfl⟩

theorem witness_stepRunsTheDecodedInstruction :
    ((inPhase 27#5).agenda = [] ∧ decodePhase (inPhase 27#5).phase = some .fail) ∧
    (∃ t, (facing (.engine none)).agenda = .engine none :: [] ∧ decodePhase (facing (.engine none)).phase = some .idle ∧
      exec .idle (facing (.engine none)) = .next t) ∧
    (∃ t, (facing (.command 0x00000103#32 none)).agenda = .command 0x00000103#32 none :: [] ∧
      decodeCommand 0x00000103#32 = .ok .decryptV ∧ exec .decryptV (facing (.command 0x00000103#32 none)) = .next t) ∧
    (∀ e ∈ [HostEvent.readReg 33, .writeReg 31 7#32, .readBuf 2 87409, .writeBuf 31 255 7#8, .readResult],
      (facing e).agenda = e :: []) :=
  ⟨⟨rfl, rfl⟩, ⟨_, rfl, rfl, rfl⟩, ⟨_, rfl, rfl, rfl⟩, fun _ _ => rfl⟩

theorem witness_onlyReservedPhasesStop :
    (inPhase 27#5).phase.toNat < 28 ∧ (∃ f, step (inPhase 28#5) = .fault f) ∧
    EngineTurn (inPhase 28#5) ∧ 28 ≤ (inPhase 28#5).phase.toNat ∧ 28 ≤ (inPhase 31#5).phase.toNat :=
  ⟨by decide, ⟨_, rfl⟩, .inl rfl, by decide, by decide⟩

theorem witness_cmdWriteStartsACommand :
    ((facing (.writeReg 0 2#32)).agenda = .writeReg 0 2#32 :: [] ∧ (facing (.writeReg 0 2#32)).stBusy = false) ∧
    ({ running with agenda := [.writeReg 0 2#32] }.agenda = .writeReg 0 2#32 :: [] ∧
      { running with agenda := [.writeReg 0 2#32] }.stBusy = true) := ⟨⟨rfl, rfl⟩, ⟨rfl, rfl⟩⟩

theorem witness_illegalCommandEndsInError :
    (∀ (w : Word) (a : Option (Bytes 16)),
      (facing (.command w a)).agenda = .command w a :: [] ∧ (facing (.command w a)).stBusy = false) ∧
    (∀ w ∈ [0x00000000#32, 0x00000004#32, 0x000000ff#32, 0x00000200#32, 0xffffffff#32],
      ¬ (w.toNat % 256 = 1 ∨ w.toNat % 256 = 2 ∨ w.toNat % 256 = 3)) ∧
    (∀ w ∈ [0x00000101#32, 0x00000201#32, 0x00000202#32, 0x80000003#32],
      (w.toNat % 256 = 1 ∨ w.toNat % 256 = 2 ∨ w.toNat % 256 = 3) ∧
      (512 ≤ w.toNat ∨ (w.toNat % 256 = 1 ∧ w.toNat / 256 % 2 = 1))) :=
  ⟨fun _ _ => ⟨rfl, rfl⟩, by simp, by simp⟩

theorem running_sequencerCoherent : SequencerCoherent running :=
  ⟨by decide, by decide, by decide, .inl rfl, fun h => absurd h (by decide), fun h => absurd h (by decide)⟩

theorem witness_busyEngineIgnoresTheHost (e : HostEvent) :
    { running with agenda := [e] }.stBusy = true ∧ { running with agenda := [e] }.agenda = e :: [] ∧ (2 : Nat) ≠ 1 ∧
      SequencerCoherent { running with agenda := [e] } :=
  ⟨rfl, rfl, by decide,
    ⟨running_sequencerCoherent.assigned, running_sequencerCoherent.busy, running_sequencerCoherent.notBoth, .inl rfl,
      fun h => absurd h (by decide : ¬ running.phase = 27#5), fun h => absurd h (by decide : ¬ running.stDone = true)⟩⟩

theorem witness_readsHaveNoSideEffect :
    (∃ (s : State) (e : HostEvent), ((∃ n, e = .readReg n) ∨ ∃ sp off, e = .readBuf sp off) ∧ s.agenda = e :: e :: ([] : List HostEvent) ∧
      e = .readReg 4) ∧
    (∃ (s : State) (e : HostEvent), ((∃ n, e = .readReg n) ∨ ∃ sp off, e = .readBuf sp off) ∧ s.agenda = e :: e :: ([] : List HostEvent) ∧
      e = .readBuf 2 0) :=
  ⟨⟨{ cfg0 with agenda := [.readReg 4, .readReg 4] }, .readReg 4, .inl ⟨4, rfl⟩, rfl, rfl⟩,
    ⟨{ cfg0 with agenda := [.readBuf 2 0, .readBuf 2 0] }, .readBuf 2 0, .inr ⟨2, 0, rfl⟩, rfl, rfl⟩⟩

theorem witness_registersReadBackByNumber :
    cfg0.stBusy = false ∧ cfg0.staged.length = 8 ∧
    (∀ n ∈ [0, 8, 15, 32, 33], n = 0 ∨ (8 ≤ n ∧ n < 16) ∨ 32 ≤ n) ∧
    (∀ n ∈ [1, 2, 4, 8, 15, 32], n = 1 ∨ n = 2 ∨ n = 4 ∨ (8 ≤ n ∧ n < 16) ∨ 32 ≤ n) ∧
    (∀ n ∈ [3, 5, 6, 7, 16, 31], n = 3 ∨ n = 5 ∨ n = 6 ∨ n = 7 ∨ (16 ≤ n ∧ n < 32)) := by decide

/-- The state with a byte at the last offset of INBUF. -/
def lastByte : State := { cfg0 with inbuf := [(65534, 0xff#8)] }

theorem slots_canonical : ∀ e ∈ cfg0.staged, e.Canonical := by
  intro e he
  rw [List.eq_of_mem_replicate he]
  exact ⟨Memory.wf_nil, Memory.within_nil _, Memory.wf_nil, Memory.within_nil _⟩

theorem witness_hostBytesGoWhereTheyAreAddressed : lastByte.stBusy = false ∧ SpacesCanonical lastByte :=
  ⟨rfl, ⟨by decide, by decide, by decide, by decide, by decide, by decide, slots_canonical⟩⟩

theorem witness_secretsAreNotReadable :
    ∃ (cfg : CommittedConfig) (slots : List StagedEntry), cfg ≠ cfg0.cfg ∧ slots ≠ cfg0.staged ∧
      cfg.valid = cfg0.cfg.valid ∧
      slots.map (fun e => (e.tagLen, e.keyLen)) = cfg0.staged.map (fun e => (e.tagLen, e.keyLen)) :=
  ⟨cfgz.cfg, List.replicate 8 { StagedEntry.reset with key := [(0, 1#8)] }, by decide, by decide, rfl, rfl⟩

theorem witness_resetClearsEverything : (facing .reset).agenda = .reset :: [] := rfl

theorem witness_finishDeliversTheResult :
    (State.withWork cfg0 hw).wk.work.length ≤ params.outMax ∧
    (State.withWork cfg0 (List.replicate 87410 1#8)).wk.work.length ≤ params.outMax :=
  ⟨by decide, by rw [State.withWork, List.length_replicate]; decide⟩

/-- Staging areas: valid ones, at the least and at the greatest sizes, and one for each failing check. -/
def goodSmall : State := staged (bytes 6 0x514654454348) [] []
def goodOne : State := staged (bytes 6 0x514654454348) mk [(bytes 6 0x5a65726f5665, legacykey)]
def goodLarge : State :=
  { goodSmall with
    sMkeyLen := 256#16, sNleg := 8#8
    staged := List.replicate 8 { StagedEntry.reset with tagLen := 6#8, keyLen := 256#16 } }
def badMkeyLen : State := { goodSmall with sMkeyLen := 257#16 }
def badNleg : State := { goodSmall with sNleg := 9#8 }
def badKeyLen : State :=
  { goodOne with staged := List.replicate 8 { StagedEntry.reset with tagLen := 6#8, keyLen := 257#16 } }
def badCurTag : State := staged (bytes 7 0x51465445434858) mk []
def badLegTag : State := staged (bytes 6 0x514654454348) mk [(bytes 6 0x5a65726f5665, legacykey), (bytes 5 0x5441473035, legacykey)]

/-- The capacity checks that CONFIG makes first. -/
abbrev TooLarge (s : State) : Prop :=
  params.mkeyMax < s.sMkeyLen.toNat ∨ params.nlegMax < s.sNleg.toNat ∨
    ∃ i < s.sNleg.toNat, params.lkeyMax < (s.slot i).keyLen.toNat

/-- What the capacity checks leave. -/
abbrev SmallEnough (s : State) : Prop :=
  s.sMkeyLen.toNat ≤ params.mkeyMax ∧ s.sNleg.toNat ≤ params.nlegMax ∧
    ∀ i < s.sNleg.toNat, (s.slot i).keyLen.toNat ≤ params.lkeyMax

theorem witness_configCheckOrder :
    TooLarge badMkeyLen ∧ TooLarge badNleg ∧ TooLarge badKeyLen ∧
    (SmallEnough badCurTag ∧ badCurTag.sCurTagLen.toNat ≠ 6) ∧
    (SmallEnough badLegTag ∧ badLegTag.sCurTagLen.toNat = 6 ∧
      ∃ i < badLegTag.sNleg.toNat, (badLegTag.slot i).tagLen.toNat ≠ 6) ∧
    (SmallEnough goodLarge ∧ goodLarge.sCurTagLen.toNat = 6 ∧
      ∀ i < goodLarge.sNleg.toNat, (goodLarge.slot i).tagLen.toNat = 6) :=
  ⟨.inl (by decide), .inr (.inl (by decide)), .inr (.inr ⟨0, by decide, by decide⟩),
    ⟨⟨by decide, by decide, by decide⟩, by decide⟩,
    ⟨⟨by decide, by decide, by decide⟩, by decide, 1, by decide, by decide⟩,
    ⟨⟨by decide, by decide, by decide⟩, by decide, by decide⟩⟩

theorem witness_commitCopiesTheStagingArea : 0 < goodOne.sNleg.toNat ∧ 7 < goodLarge.sNleg.toNat := by decide

theorem witness_configCommitsAValidConfiguration :
    ∀ s ∈ [goodSmall, goodOne, goodLarge], s.stBusy = false ∧ s.sMkeyLen.toNat ≤ params.mkeyMax ∧
      s.sNleg.toNat ≤ params.nlegMax ∧
      (∀ i < s.sNleg.toNat, (s.slot i).keyLen.toNat ≤ params.lkeyMax ∧ (s.slot i).tagLen.toNat = 6) ∧
      s.sCurTagLen.toNat = 6 := by decide

theorem witness_failedConfigKeepsTheConfig :
    (badMkeyLen.stBusy = false ∧ TooLarge badMkeyLen) ∧
    (badCurTag.stBusy = false ∧ SmallEnough badCurTag ∧ badCurTag.sCurTagLen.toNat ≠ 6) ∧
    (badLegTag.stBusy = false ∧ SmallEnough badLegTag ∧ badLegTag.sCurTagLen.toNat = 6 ∧
      ∃ i < badLegTag.sNleg.toNat, (badLegTag.slot i).tagLen.toNat ≠ 6) :=
  ⟨⟨rfl, witness_configCheckOrder.1⟩, ⟨rfl, witness_configCheckOrder.2.2.2.1⟩,
    ⟨rfl, witness_configCheckOrder.2.2.2.2.1⟩⟩

theorem witness_lookupTakesTheHighestIndex :
    (∃ (table : List LegacyEntry) (i : Nat) (e : LegacyEntry), table[i]? = some e ∧ e.tag = Config.reservedTag ∧
      (∀ (j : Nat) (e' : LegacyEntry), i < j → table[j]? = some e' → e'.tag ≠ Config.reservedTag) ∧ table.length = 2) ∧
    (∀ e ∈ [(⟨qftech, legacykey⟩ : LegacyEntry)], e.tag ≠ Config.reservedTag) := by
  refine ⟨⟨[⟨Config.reservedTag, mk⟩, ⟨Config.reservedTag, legacykey⟩], 1, _, rfl, rfl, ?_, rfl⟩, by decide⟩
  intro j e' hj h
  have := (List.getElem?_eq_some_iff.mp h).1
  simp only [List.length_cons, List.length_nil] at this
  omega

theorem witness_kdfIterFoldsOnePrfCall :
    (1#14).toNat < 10000 ∧ { inPhase 7#5 with wk.kdfI := 9999#14 }.wk.kdfI.toNat < 10000 := by decide

theorem witness_stateMachineComputesTheKdf : (inPhase 6#5).agenda = [] ∧ (inPhase 6#5).phase = 6#5 := ⟨rfl, rfl⟩

theorem witness_rngLoadsTheDraw :
    (facing (.engine (some iva))).agenda = .engine (some iva) :: [] ∧
    (facing (.command 0x00000002#32 (some iva))).agenda = .command 0x00000002#32 (some iva) :: [] := ⟨rfl, rfl⟩

/-- The last group of a 16-byte IV alone holds one byte, of IV and one byte two, of IV and two bytes three. -/
theorem witness_base64EncodesTheIvAndTheCipher :
    ∀ n ≤ 2, 3 * 5 < (iva.val ++ zeros n).length ∧ (3 * 5 + 1 < (iva.val ++ zeros n).length ↔ 1 ≤ n) ∧
      (3 * 5 + 2 < (iva.val ++ zeros n).length ↔ n = 2) := by decide

theorem witness_cbcEncryptChains :
    (State.withWork cfg0 (zeros 32)).wk.work.length % 16 = 0 ∧ 16 * 0 < (State.withWork cfg0 (zeros 32)).wk.work.length ∧
    16 * 1 < (State.withWork cfg0 (zeros 32)).wk.work.length ∧ (State.withWork cfg0 []).wk.work.length % 16 = 0 := by decide

/-- The two forms of ENCRYPT, each with its tag. -/
theorem encryptForms (s : State) :
    EncryptForm s .encrypt 0x00000002#32 s.cfg.curTag.val ∧ EncryptForm s .encryptV 0x00000102#32 (s.vtag.readBytes 0 6) :=
  ⟨.inl ⟨rfl, rfl, rfl⟩, .inr ⟨rfl, rfl, rfl⟩⟩

/-- The two forms of DECRYPT, each with its tag. -/
theorem decryptForms (s : State) :
    DecryptForm s .decrypt 0x00000003#32 s.cfg.curTag.val ∧ DecryptForm s .decryptV 0x00000103#32 (s.vtag.readBytes 0 6) :=
  ⟨.inl ⟨rfl, rfl, rfl⟩, .inr ⟨rfl, rfl, rfl⟩⟩

/-- The longest input IN_MAX allows, and one byte more than that. -/
def fullInput : State := { configured (zeros 32) [] with inLen := 65535#32 }
def overInput : State := { configured (zeros 32) [] with inLen := 65536#32 }

theorem witness_encryptDeliversTheCiphertext :
    (∃ i w tag, EncryptForm fullInput i w tag ∧ i = .encrypt) ∧ (∃ i w tag, EncryptForm fullInput i w tag ∧ i = .encryptV) ∧
    fullInput.stBusy = false ∧ fullInput.inLen.toNat ≤ params.inMax ∧ fullInput.cfg.valid = true ∧
    32 ≤ fullInput.cfg.mkey.length :=
  ⟨⟨_, _, _, (encryptForms _).1, rfl⟩, ⟨_, _, _, (encryptForms _).2, rfl⟩, rfl, by decide, rfl, by decide⟩

theorem witness_encryptEntryErrors :
    (∀ s : State, EncryptForm s .encrypt 0x00000002#32 s.cfg.curTag.val ∧
      EncryptForm s .encryptV 0x00000102#32 (s.vtag.readBytes 0 6)) ∧
    (overInput.stBusy = false ∧ params.inMax < overInput.inLen.toNat) ∧
    (State.reset.stBusy = false ∧ State.reset.inLen.toNat ≤ params.inMax ∧ State.reset.cfg.valid = false) ∧
    (let s : State := configured (zeros 31) [];
      s.stBusy = false ∧ s.inLen.toNat ≤ params.inMax ∧ s.cfg.valid = true ∧ s.cfg.mkey.length < 32) :=
  ⟨encryptForms, ⟨rfl, by decide⟩, ⟨rfl, by decide, rfl⟩, ⟨rfl, by decide, rfl, by decide⟩⟩

theorem witness_tagAndIvAreSplitOff :
    (State.withInput cfg0 (zeros 5)).inLen.toNat < 6 ∧ 6 ≤ (State.withInput cfg0 (zeros 6)).inLen.toNat ∧
    (State.withWork cfg0 (zeros 15)).wk.work.length < 16 ∧ 16 ≤ (State.withWork cfg0 (zeros 16)).wk.work.length := by decide

theorem witness_selectDispatches :
    (∃ s t, exec .select s = .next t ∧ s.wk.tagr = t.wk.expected) ∧
    (∃ s t, exec .select s = .next t ∧ s.wk.tagr ≠ t.wk.expected ∧
      ∃ e ∈ s.cfg.legacy, e.tag.val = [0x5a#8, 0x65#8, 0x72#8, 0x6f#8, 0x56#8, 0x65#8]) ∧
    (∃ s t, exec .select s = .next t ∧ s.wk.tagr ≠ t.wk.expected ∧ s.cfg.legacy.length = 1 ∧
      ∀ e ∈ s.cfg.legacy, e.tag.val ≠ [0x5a#8, 0x65#8, 0x72#8, 0x6f#8, 0x56#8, 0x65#8]) :=
  ⟨⟨{ cfg0 with wk.tagr := qftech }, _, rfl, by decide⟩, ⟨cfgz, _, rfl, by decide, by decide⟩,
    ⟨configured mk [⟨tag6 0x4f4c44544147, legacykey⟩], _, rfl, by decide, rfl, by decide⟩⟩

/-- `"QFTECHAAA"`: a payload of 3 characters, and `"QFTECH!AAA"`: one of 4 with a character outside the alphabet. -/
theorem witness_base64PhasesDecode :
    (∀ s : State, (Instr.b64d = .b64d ∧ s.payload = s.inbuf.readBytes 6 (s.inLen.toNat - 6) ∧ 18#5 = 18#5) ∧
      (Instr.lB64d = .lB64d ∧ s.input = s.inbuf.readBytes 0 s.inLen.toNat ∧ 23#5 = 23#5)) ∧
    (∃ v, b64Decode params (State.withInput cfg0 hw).payload = .ok v) ∧
    (∃ v, b64Decode params (State.withInput cfgz la).input = .ok v) ∧
    (∀ v, b64Decode params (State.withInput cfg0 (bytes 9 0x514654454348414141)).payload ≠ .ok v) ∧
    (State.withInput cfg0 (bytes 9 0x514654454348414141)).payload.length % 4 ≠ 0 ∧
    (0 + 2 < (State.withInput cfg0 (bytes 10 0x51465445434821414141)).payload.length ∧
      b64Val ((State.withInput cfg0 (bytes 10 0x51465445434821414141)).payload.getD 0 0#8) = none) ∧
    (1 + 2 < (State.withInput cfg0 (bytes 10 0x51465445434841214141)).payload.length ∧
      b64Val ((State.withInput cfg0 (bytes 10 0x51465445434841214141)).payload.getD 1 0#8) = none) := by
  refine ⟨fun _ => ⟨⟨rfl, rfl, rfl⟩, ⟨rfl, rfl, rfl⟩⟩, ⟨_, rfl⟩, ⟨_, rfl⟩, fun v h => ?_, by decide, by decide, by decide⟩
  rw [show b64Decode params (State.withInput cfg0 (bytes 9 0x514654454348414141)).payload = .error .b64Invalid from rfl] at h
  cases h

theorem witness_cbcDecryptUnchains :
    (State.withWork cfg0 (zeros 17)).wk.work.length % 16 ≠ 0 ∧ (State.withWork cfg0 (zeros 32)).wk.work.length % 16 = 0 ∧
    16 * 0 < (State.withWork cfg0 (zeros 32)).wk.work.length ∧ 16 * 1 < (State.withWork cfg0 (zeros 32)).wk.work.length := by
  decide

theorem witness_paddingIsStripped :
    (State.withWork cfg0 []).wk.work = [] ∧ (State.withWork cfg0 [1#8]).wk.work = [] ++ [1#8] ∧
    (let s := State.withWork { cfg0 with wk.plen := 32, wk.elen := 33 } (zeros 32);
      s.wk.plen ≤ s.wk.work.length ∧ s.wk.plen < s.wk.elen) ∧
    (let s := State.withWork { cfg0 with wk.plen := 32, wk.elen := 32 } (zeros 32);
      s.wk.plen ≤ s.wk.work.length ∧ s.wk.elen ≤ s.wk.plen) := by decide

/-- `HW` as input, a master key of exactly 32 bytes, and VTAG equal to the current tag for the .V form. -/
def currentInput : State := { State.withInput (configured (zeros 32) []) hw with vtag := Memory.ofBytes 0 qftech.val }

theorem witness_decryptTakesTheCurrentPath :
    ∃ buf, (∀ tag ∈ [currentInput.cfg.curTag.val, currentInput.vtag.readBytes 0 6], currentInput.inbuf.readBytes 0 6 = tag) ∧
      (∃ i w tag, DecryptForm currentInput i w tag ∧ tag = currentInput.cfg.curTag.val) ∧
      (∃ i w tag, DecryptForm currentInput i w tag ∧ tag = currentInput.vtag.readBytes 0 6) ∧
      currentInput.stBusy = false ∧ currentInput.inLen.toNat ≤ params.inMax ∧ currentInput.cfg.valid = true ∧
      6 ≤ currentInput.inLen.toNat ∧ 32 ≤ currentInput.cfg.mkey.length ∧
      b64Decode params (currentInput.inbuf.readBytes 6 (currentInput.inLen.toNat - 6)) = .ok buf ∧
      32 ≤ buf.length ∧ buf.length % 16 = 0 :=
  ⟨_, by decide, ⟨_, _, _, (decryptForms _).1, rfl⟩, ⟨_, _, _, (decryptForms _).2, rfl⟩, rfl, by decide, rfl, by decide,
    by decide, rfl, by decide, by decide⟩

/-- `LA` and `"AAAAAAAA"` (V-L21: an empty prefix) as input, VTAG six 00 for the .V form. -/
theorem witness_decryptTakesTheLegacyPath :
    ∀ text ∈ [la, (bytes 8 0x4141414141414141)], ∃ buf lk, let s := State.withInput cfgz text
      DecryptForm s .decrypt 0x00000003#32 s.cfg.curTag.val ∧
      DecryptForm s .decryptV 0x00000103#32 (s.vtag.readBytes 0 6) ∧ s.stBusy = false ∧ s.inLen.toNat ≤ params.inMax ∧
      s.cfg.valid = true ∧ 6 ≤ s.inLen.toNat ∧ s.inbuf.readBytes 0 6 ≠ s.cfg.curTag.val ∧
      s.inbuf.readBytes 0 6 ≠ s.vtag.readBytes 0 6 ∧ legLookup s.cfg.legacy Config.reservedTag = some lk ∧ lk.length ≤ 32 ∧
      b64Decode params (s.inbuf.readBytes 0 s.inLen.toNat) = .ok buf ∧
      beNat (buf.drop (buf.length / 16 * 16)) ≤ buf.length / 16 * 16 := by
  intro text ht
  simp only [List.mem_cons, List.not_mem_nil, or_false] at ht
  rcases ht with rfl | rfl
  · exact ⟨_, _, (decryptForms _).1, (decryptForms _).2, rfl, by decide, rfl, by decide, by decide, by decide, rfl, by decide, rfl,
      by decide⟩
  · exact ⟨_, _, (decryptForms _).1, (decryptForms _).2, rfl, by decide, rfl, by decide, by decide, by decide, rfl, by decide, rfl,
      by decide⟩

/-- One state for each clause; in all of them VTAG holds the current tag, so that both forms meet the clause. -/
def withTag (s : State) : State := { s with vtag := Memory.ofBytes 0 qftech.val }

theorem witness_decryptErrorsBeforeDecoding :
    (∀ s : State, DecryptForm s .decrypt 0x00000003#32 s.cfg.curTag.val ∧
      DecryptForm s .decryptV 0x00000103#32 (s.vtag.readBytes 0 6)) ∧
    (withTag cfg0).vtag.readBytes 0 6 = (withTag cfg0).cfg.curTag.val ∧
    (overInput.stBusy = false ∧ params.inMax < overInput.inLen.toNat) ∧
    (State.reset.inLen.toNat ≤ params.inMax ∧ State.reset.cfg.valid = false) ∧
    (let s := State.withInput cfg0 (zeros 5);
      s.stBusy = false ∧ s.inLen.toNat ≤ params.inMax ∧ s.cfg.valid = true ∧ s.inLen.toNat < 6) ∧
    (let s := withTag (State.withInput (configured (zeros 31) []) qftech.val);
      s.inLen.toNat ≤ params.inMax ∧ s.cfg.valid = true ∧ 6 ≤ s.inLen.toNat ∧ s.inbuf.readBytes 0 6 = s.cfg.curTag.val ∧
      s.cfg.mkey.length < 32) ∧
    (let s := withTag (State.withInput cfg0 (zeros 6));
      s.inLen.toNat ≤ params.inMax ∧ s.cfg.valid = true ∧ 6 ≤ s.inLen.toNat ∧ s.inbuf.readBytes 0 6 ≠ s.cfg.curTag.val ∧
      legLookup s.cfg.legacy Config.reservedTag = none) ∧
    (let s := withTag (State.withInput (configured mk [⟨Config.reservedTag, zeros 33⟩]) (zeros 6));
      s.inLen.toNat ≤ params.inMax ∧ s.cfg.valid = true ∧ 6 ≤ s.inLen.toNat ∧ s.inbuf.readBytes 0 6 ≠ s.cfg.curTag.val ∧
      legLookup s.cfg.legacy Config.reservedTag = some (zeros 33) ∧ 32 < (zeros 33).length) :=
  ⟨decryptForms, by decide, by decide, by decide, by decide, by decide, by decide, by decide⟩

theorem witness_legacyKeyIsFitted :
    (legLookup cfgz.cfg.legacy Config.reservedTag = some legacykey ∧ legacykey.length ≤ 32) ∧
    (∀ n ∈ [0, 16, 17, 24, 25, 32], legLookup [⟨Config.reservedTag, zeros n⟩] Config.reservedTag = some (zeros n) ∧
      (zeros n).length ≤ 32) ∧
    (legLookup [⟨Config.reservedTag, zeros 33⟩] Config.reservedTag = some (zeros 33) ∧ 32 < (zeros 33).length) := by decide

theorem witness_legacyCbcUsesTheZeroIv :
    let s := State.withWork { cfgz with wk.plen := 32 } (zeros 32)
    s.wk.plen % 16 = 0 ∧ s.wk.plen ≤ s.wk.work.length ∧ 16 * 0 < s.wk.plen ∧ 16 * 1 < s.wk.plen := by decide

theorem witness_cbcRoundTrip :
    plainCipher.Lawful ∧ Config.ValidKey (zeros 16) ∧ Config.ValidKey (zeros 24) ∧ Config.ValidKey (zeros 32) ∧
    ([] : ByteString).length % 16 = 0 ∧ (zeros 32).length % 16 = 0 := ⟨plainCipher_lawful, by decide⟩

theorem witness_decryptUndoesEncrypt :
    ∃ p : Config.Params, p.Ok ∧ 32 ≤ (configured (zeros 32) []).cfg.mkey.length :=
  ⟨{ params with bc := plainCipher },
    ⟨by decide, by decide, by decide, by decide, by decide, rfl, by decide, by decide, plainCipher_lawful⟩, by decide⟩

/-- The empty plaintext, and the longest one whose ciphertext string fits IN_MAX. -/
theorem witness_machineRoundTrip :
    ∀ n ∈ [0#32, 49119#32], let s : State := { configured (zeros 32) [] with inLen := n }
      s.stBusy = false ∧ s.cfg.valid = true ∧ 32 ≤ s.cfg.mkey.length ∧
      6 + 4 * ((32 + 16 * (s.inLen.toNat / 16) + 2) / 3) ≤ params.inMax := by
  intro n hn
  simp only [List.mem_cons, List.not_mem_nil, or_false] at hn
  rcases hn with rfl | rfl
  · exact ⟨rfl, rfl, by decide, by decide⟩
  · exact ⟨rfl, rfl, by decide, by decide⟩

theorem witness_onlyConfigAndResetChangeTheConfig :
    (∃ t, step { State.reset with phase := 3#5 } = .next t ∧ t.cfg ≠ State.reset.cfg) ∧
    (∃ t, step { goodSmall with agenda := [.command 0x00000001#32 none] } = .next t ∧ t.cfg ≠ goodSmall.cfg) ∧
    (∃ t, step (facing .reset) = .next t ∧ t.cfg ≠ (facing .reset).cfg) :=
  ⟨⟨_, rfl, by decide⟩, ⟨_, rfl, by decide⟩, ⟨_, rfl, by decide⟩⟩

theorem witness_commandsKeepTheirOperands :
    (∃ t, step (inPhase 27#5) = .next t ∧ EngineTurn (inPhase 27#5)) ∧
    (∃ t, step (facing (.engine none)) = .next t ∧ EngineTurn (facing (.engine none))) ∧
    (∃ t w a, step (facing (.command 0x00000001#32 none)) = .next t ∧
      (facing (.command 0x00000001#32 none)).agenda.head? = some (.command w a)) :=
  ⟨⟨_, rfl, .inl rfl⟩, ⟨_, rfl, .inr ⟨_, rfl⟩⟩, ⟨_, _, _, rfl, rfl⟩⟩

theorem witness_drawsOnlyForEncrypt :
    (∃ t, step (inPhase 5#5) = .next t ∧ t.draws ≠ (inPhase 5#5).draws) ∧
    (∃ t, step (facing (.command 0x00000002#32 none)) = .next t ∧
      t.draws ≠ (facing (.command 0x00000002#32 none)).draws) ∧
    (Instr.decrypt ≠ .rng ∧ Instr.decrypt ≠ .encrypt ∧ Instr.decrypt ≠ .encryptV) :=
  ⟨⟨_, rfl, by decide⟩, ⟨_, rfl, by decide⟩, by decide⟩

theorem running_spacesCanonical : SpacesCanonical running :=
  ⟨by decide, by decide, by decide, by decide, by decide, by decide, slots_canonical⟩

theorem running_outputBounded : OutputBounded running :=
  ⟨by decide, fun _ _ => rfl, fun _ => by decide, by decide, fun _ => by decide, fun _ => by decide⟩

theorem running_keyGuarded : KeyGuarded running :=
  ⟨fun _ => rfl, fun _ => ⟨rfl, by decide⟩, fun h => absurd h (by decide), fun h => absurd h (by decide)⟩

theorem witness_stepKeepsTheInvariants :
    ∃ t, step running = .next t ∧ t.phase = 4#5 ∧ SpacesCanonical running ∧ SequencerCoherent running ∧
      OutputBounded running ∧ KeyGuarded running :=
  ⟨_, rfl, rfl, running_spacesCanonical, running_sequencerCoherent, running_outputBounded, running_keyGuarded⟩

theorem witness_everyCommandEnds :
    SequencerCoherent running ∧ KeyGuarded running ∧ running.agenda = [] ∧ running.stBusy = true :=
  ⟨running_sequencerCoherent, running_keyGuarded, rfl, rfl⟩

theorem witness_phasesImplementTheCommands : cfg0.stBusy = false ∧ cfg0.agenda = [] := ⟨rfl, rfl⟩

/-! ### Vectors that run the cipher or the hash (the kernel evaluates them; one after the other, so that they do not wait for each other side by side) -/

set_option Elab.async false in
/-- R308, first row, both ways. -/
theorem test_aes128 :
    (aesEnc (bytes 16 0x000102030405060708090a0b0c0d0e0f) (reg16 0x00112233445566778899aabbccddeeff)).val =
      bytes 16 0x69c4e0d86a7b0430d8cdb78070b4c55a ∧
    (aesDec (bytes 16 0x000102030405060708090a0b0c0d0e0f) (reg16 0x69c4e0d86a7b0430d8cdb78070b4c55a)).val =
      bytes 16 0x00112233445566778899aabbccddeeff := by decide +kernel

set_option Elab.async false in
/-- R308, second row. -/
theorem test_aes192 :
    (aesEnc (bytes 24 0x000102030405060708090a0b0c0d0e0f1011121314151617) (reg16 0x00112233445566778899aabbccddeeff)).val =
      bytes 16 0xdda97ca4864cdfe06eaf70a0ec0d7191 := by decide +kernel

set_option Elab.async false in
/-- R308, third row, backwards. -/
theorem test_aes256_inverse :
    (aesDec (bytes 32 0x000102030405060708090a0b0c0d0e0f101112131415161718191a1b1c1d1e1f)
      (reg16 0x8ea2b7ca516745bfeafc49904b496089)).val = bytes 16 0x00112233445566778899aabbccddeeff :=
  by decide +kernel

set_option Elab.async false in
/-- R313. -/
theorem test_sha256_abc :
    (sha256 (bytes 3 0x616263)).val = bytes 32 0xba7816bf8f01cfea414140de5dae2223b00361a396177a9cb410ff61f20015ad :=
  by decide +kernel

set_option Elab.async false in
/-- V-K1, U_1. -/
theorem test_kdfInit :
    (after .kdfInit { cfg0 with wk.ivr := iva }).map (fun t => (t.wk.kdfU.val, t.wk.kdfI)) =
      some (bytes 32 0xf12aeb8ea5bf6c1389a175ff517a94e159df8cb768153346f653ca0b349957d5, 1#14) :=
  by decide +kernel

set_option Elab.async false in
/-- V-K1, after the first KDF_ITER. -/
theorem test_kdfIter :
    let u := reg32 0xf12aeb8ea5bf6c1389a175ff517a94e159df8cb768153346f653ca0b349957d5
    (after .kdfIter { cfg0 with wk.kdfU := u, wk.kdfT := u, wk.kdfI := 1#14 }).map (fun t => (t.wk.kdfT.val, t.wk.kdfI, t.phase)) =
      some (bytes 32 0xa9483f22cf852d2354eeede449705f52b4948681c10e6a01e281c6b5eb632e14, 2#14, 7#5) :=
  by decide +kernel

set_option Elab.async false in
/-- V-B1. -/
theorem test_cbce :
    (after .cbce (State.withWork { cfg0 with wk.dkey := dkeyK1, wk.ivr := iva } padded)).map
      (·.wk.work) = some cipher := by decide +kernel

set_option Elab.async false in
/-- V-L1, V-S5: the whole legacy path. -/
theorem test_decrypt_legacy :
    (after .decrypt (State.withInput cfgz la)).map (fun t => (t.status, t.outLen, t.outbuf.readBytes 0 29)) =
      some (0x0000002a#32, 29#32, bytes 29 0x6c656761637920706c61696e746578742c2032392062797465732e2e21) :=
  by decide +kernel

set_option Elab.async false in
/-- R266. -/
theorem test_cbcd :
    (after .cbcd (State.withWork { cfg0 with wk.dkey := dkeyK1, wk.ivr := iva } cipher)).map
      (·.wk.work) = some padded := by decide +kernel

set_option Elab.async false in
/-- V-B4, R291: the IV register was not zero before. -/
theorem test_lCbcd :
    (after .lCbcd (State.withWork { cfgz with wk.lkfit := legacykey ++ zeros 7, wk.plen := 32, wk.ivr := iva }
      legacyCipher)).map (fun t => (t.wk.work, t.wk.ivr)) =
      some (bytes 32 0x6c656761637920706c61696e746578742c2032392062797465732e2e21000000, reg16 0) :=
  by decide +kernel

end Sys2Proof.Tests
end

section
/-!
SUPPORT. Which steps change the Config (R23): what a decoded code runs, what each instruction and each host access does with the
Config, and the statement O51.
-/

namespace Sys2Proof.Machine

/-! ### A decoded instruction is the one whose code was read (R92, R96) -/

/-- A micro-operation is decoded from its own PHASE code only. -/
theorem encode_of_decodePhase {c : BitVec 5} {i : Instr} (h : decodePhase c = some i) : encode i = .phase c := by
  have all_codes : ∀ c : BitVec 5, ∀ i ∈ decodePhase c, encode i = .phase c := by decide
  exact all_codes c i h

/-- The bits of a command word (R90): OPC below bit 8, V in bit 8, zeros above it. -/
theorem getLsbD_commandWord (opc : BitVec 8) (v : Bool) (k : Nat) :
    (commandWord opc v).getLsbD k = if k < 8 then opc.getLsbD k else decide (k = 8) && v := by
  have outer : (commandWord opc v).getLsbD k = if k < 9 then (BitVec.ofBool v ++ opc).getLsbD k else _ :=
    BitVec.getLsbD_append
  have inner : (BitVec.ofBool v ++ opc).getLsbD k = if k < 8 then opc.getLsbD k else (BitVec.ofBool v).getLsbD (k - 8) :=
    BitVec.getLsbD_append
  rw [outer, inner]
  obtain hlt | rfl | hgt := Nat.lt_trichotomy k 8
  · simp [hlt, Nat.lt_succ_of_lt hlt]
  · simp
  · simp [Nat.not_lt.mpr hgt, Nat.lt_asymm hgt, Nat.ne_of_gt hgt]

/-- A command word with no reserved bit set is made of its two other fields (R90). -/
theorem commandWord_fields {w : Word} (h : rsvField w = 0#23) : commandWord (opcField w) (vField w) = w := by
  apply BitVec.eq_of_getLsbD_eq
  intro k hk
  rw [getLsbD_commandWord]
  obtain hlt | rfl | hgt := Nat.lt_trichotomy k 8
  · simp [opcField, hlt]
  · simp [vField]
  · have reserved : w.getLsbD (9 + (k - 9)) = false := by
      simpa [rsvField, show k - 9 < 23 by omega] using congrArg (·.getLsbD (k - 9)) h
    rw [show 9 + (k - 9) = k by omega] at reserved
    simp [Nat.lt_asymm hgt, Nat.ne_of_gt hgt, reserved]

/-- A command is decoded from its own word only. -/
theorem encode_of_decodeCommand {w : Word} {i : Instr} (h : decodeCommand w = .ok i) : encode i = .command w := by
  unfold decodeCommand at h
  split_ifs at h with hopc hbits hconfig hencrypt hv hv
  all_goals
    injection h with h
    subst h
    obtain ⟨hrsv, hover⟩ := not_or.mp hbits
    rw [← commandWord_fields (not_not.mp hrsv)]
  · have hv : vField w = false := by simpa [hconfig] using hover
    rw [hconfig, hv]; rfl
  · rw [hencrypt, hv]; rfl
  · rw [hencrypt, Bool.eq_false_of_not_eq_true hv]; rfl
  all_goals
    have hdecrypt : opcField w = 0x03#8 := by
      by_contra hne
      exact hopc ⟨hconfig, hencrypt, hne⟩
  · rw [hdecrypt, hv]; rfl
  · rw [hdecrypt, Bool.eq_false_of_not_eq_true hv]; rfl

/-! ### What each instruction does with the Config -/

@[simp] theorem State.endWith_cfg (p : Config.Params) (s : State) (r : Except ErrorCause ByteString) :
    (s.endWith p r).cfg = s.cfg := by
  cases r <;> rfl

@[simp] theorem encryptCommand_cfg (p : Config.Params) (iv : Bytes 16) (v : Bool) (s : State) :
    (encryptCommand p iv v s).cfg = s.cfg := by
  unfold encryptCommand
  split <;> rfl

@[simp] theorem decryptCommand_cfg (p : Config.Params) (v : Bool) (s : State) : (decryptCommand p v s).cfg = s.cfg := by
  unfold decryptCommand
  split <;> simp

@[simp] theorem illegalCommand_cfg (s : State) (w : Word) (r : CommandReject) : (illegalCommand s w r).cfg = s.cfg := by
  unfold illegalCommand
  split <;> rfl

/-- CONFIG after its acceptance (R130): the error end that keeps the Config, or the good end with the staged one. -/
theorem configCommand_cases (p : Config.Params) (s : State) :
    (configCommand p s).cfg = s.cfg ∨
    ((configCommand p s).stErr = false ∧ (configCommand p s).cfg = s.stagedConfig) := by
  unfold configCommand
  split
  · exact .inl rfl
  · exact .inr ⟨rfl, rfl⟩

/-- The whole CONFIG command (R130): it leaves the Config alone, or it was accepted and succeeded. -/
theorem execConfig_cases {s t : State} (h : execConfig s = .next t) :
    t.cfg = s.cfg ∨ (s.stBusy = false ∧ t.stErr = false ∧ t.cfg = s.stagedConfig) := by
  unfold execConfig configWith at h
  injection h with h
  split_ifs at h with hbusy <;> subst h
  · exact .inl rfl
  · exact (configCommand_cases params (s.accept (commandWord 0x01#8 false))).imp_right
      fun ⟨hok, hcfg⟩ => ⟨by simpa using hbusy, hok, hcfg⟩

/-- Every instruction but CONFIG and C_COMMIT keeps the Config. -/
theorem exec_cfg {i : Instr} {s t : State} (hconfig : i ≠ .config) (hcommit : i ≠ .cCommit) (h : exec i s = .next t) :
    t.cfg = s.cfg := by
  cases i with
  | config => exact absurd rfl hconfig
  | cCommit => exact absurd rfl hcommit
  | encrypt | encryptV =>
    injection h with h
    split at h <;> subst h <;> simp
  | decrypt | decryptV =>
    injection h with h
    split at h <;> subst h <;> simp
  | idle | rng | kdfInit | kdfIter | kdfDone | pad | cbce | b64e | tagput | lSplit | finish | fail =>
    injection h with h
    subst h; rfl
  | decode =>
    injection h with h
    split_ifs at h <;> subst h <;> rfl
  | select =>
    injection h with h
    dsimp only at h
    split_ifs at h <;> subst h <;> rfl
  | cCheck | eCheck | dCheck | tagsplit | dKeychk | b64d | ivsplit | cbcd | unpad | lKeyfit | lB64d | lCbcd | lTrunc =>
    injection h with h
    split at h <;> subst h <;> rfl

/-! ### What a turn of the engine or of a command does with the Config -/

/-- The engine changes the Config in phase C_COMMIT alone, which goes on to FINISH with a valid Config (R132). -/
theorem engineStep_cfg_cases {s t : State} (h : engineStep exec s = .next t) :
    t.cfg = s.cfg ∨ (s.phase = Phase.cCommit ∧ t.phase = Phase.finish ∧ t.cfg.valid = true) := by
  obtain ⟨i, hi, ht⟩ := (engineStep_next_iff ..).mp h
  have hcode := encode_of_decodePhase hi
  by_cases hcommit : i = .cCommit
  · subst hcommit
    injection hcode with hphase
    injection ht with ht
    subst ht
    exact .inr ⟨hphase.symm, rfl, rfl⟩
  · have hconfig : i ≠ .config := by
      rintro rfl
      cases hcode
    exact .inl (exec_cfg hconfig hcommit ht)

/-- A whole command changes the Config only as an accepted CONFIG that succeeds, and then to a valid one (R130). -/
theorem commandStep_cfg_cases {w : Word} {s t : State} (h : commandStep exec w s = .next t) :
    t.cfg = s.cfg ∨ (w = commandWord 0x01#8 false ∧ s.stBusy = false ∧ t.stErr = false ∧ t.cfg.valid = true) := by
  obtain ⟨i, hi, ht⟩ | ⟨r, -, rfl⟩ := (commandStep_next_iff ..).mp h
  · have hcode := encode_of_decodeCommand hi
    by_cases hconfig : i = .config
    · subst hconfig
      injection hcode with hw
      exact (execConfig_cases ht).imp_right
        fun ⟨hfree, hok, hcfg⟩ => ⟨hw.symm, hfree, hok, congrArg CommittedConfig.valid hcfg⟩
    · have hcommit : i ≠ .cCommit := by
        rintro rfl
        cases hcode
      exact .inl (exec_cfg hconfig hcommit ht)
  · exact .inl (illegalCommand_cfg s w r)

/-! ### The host's accesses keep the Config -/

@[simp] theorem hostWriteReg_cfg (p : Config.Params) (s : State) (n : Nat) (v : Word) :
    (hostWriteReg p s n v).cfg = s.cfg := by
  obtain h | ⟨-, -, h⟩ | ⟨-, _, _, _, _, h⟩ | ⟨-, _, _, _, h⟩ := hostWriteReg_cases p s n v <;> rw [h] <;> rfl

@[simp] theorem hostWriteBuf_cfg (p : Config.Params) (s : State) (space off : Nat) (b : Byte) :
    (hostWriteBuf p s space off b).cfg = s.cfg := by
  obtain h | ⟨-, ⟨-, h⟩ | ⟨-, h⟩ | ⟨-, h⟩ | ⟨-, h⟩ | ⟨-, _, h⟩ | ⟨-, _, h⟩⟩ := hostWriteBuf_cases p s space off b <;>
    rw [h] <;> rfl

/-! ### A step -/

/-- Settles O51: an engine's turn, a whole command and reset are the events that can change the Config, the host's accesses
cannot. -/
theorem onlyConfigAndResetChangeTheConfig : Obligations.OnlyConfigAndResetChangeTheConfig := by
  intro s t hstep hchanged
  obtain ⟨hidle, hengine⟩ | ⟨e, rest, u, hagenda, hevent, rfl⟩ := step_cases s t hstep
  · exact .inl ⟨.inl hidle, (engineStep_cfg_cases hengine).resolve_left hchanged⟩
  · have hhead : s.agenda.head? = some e := by rw [hagenda]; rfl
    cases eventStep_cases _ _ _ _ _ hevent with
    | engine a _ hrun => exact .inl ⟨.inr ⟨a, hhead⟩, (engineStep_cfg_cases hrun).resolve_left hchanged⟩
    | command w a _ hrun =>
      obtain ⟨rfl, hfree, hok, hvalid⟩ := (commandStep_cfg_cases hrun).resolve_left hchanged
      exact .inr (.inl ⟨⟨⟨a, hhead⟩, hfree⟩, hok, hvalid⟩)
    | reset => exact .inr (.inr hhead)
    | writeReg n v => exact absurd (hostWriteReg_cfg params s n v) hchanged
    | writeBuf space off b => exact absurd (hostWriteBuf_cfg params s space off b) hchanged
    | readReg | readBuf | readResult => exact absurd rfl hchanged

end Sys2Proof.Machine
end

section
/-!
SUPPORT. The fields of the command word as numbers (R90, R91), and the statement O14 about the phase that classifies it (R93).
-/

namespace Sys2Proof.Machine

/-! ### The fields of a command word as numbers (R91) -/

/-- OPC is the low byte of the word. -/
theorem opcField_toNat (w : Word) : (opcField w).toNat = w.toNat % 256 := by
  simp [opcField, BitVec.extractLsb'_toNat]

/-- RSV is the word without its low nine bits. -/
theorem rsvField_toNat (w : Word) : (rsvField w).toNat = w.toNat / 512 := by
  have hw := w.isLt
  rw [rsvField, BitVec.extractLsb'_toNat, Nat.shiftRight_eq_div_pow]
  omega

theorem opcField_eq_iff (w : Word) (c : BitVec 8) : opcField w = c ↔ w.toNat % 256 = c.toNat := by
  rw [← opcField_toNat, BitVec.toNat_inj]

theorem vField_eq_true_iff (w : Word) : vField w = true ↔ w.toNat / 256 % 2 = 1 := by
  rw [vField, BitVec.getLsbD, Nat.testBit_eq_decide_div_mod_eq, decide_eq_true_iff]

theorem rsvField_ne_zero_iff (w : Word) : rsvField w ≠ 0#23 ↔ 512 ≤ w.toNat := by
  rw [← BitVec.toNat_ne_iff_ne, rsvField_toNat, BitVec.toNat_ofNat]
  omega

/-- R93's first check, on the number of the word: OPC is none of the three. -/
theorem badOpc_iff (w : Word) :
    (opcField w ≠ 0x01#8 ∧ opcField w ≠ 0x02#8 ∧ opcField w ≠ 0x03#8) ↔
      ¬ (w.toNat % 256 = 1 ∨ w.toNat % 256 = 2 ∨ w.toNat % 256 = 3) := by
  simp only [ne_eq, opcField_eq_iff, BitVec.reduceToNat, not_or]

/-- R93's second check, on the number of the word: a reserved bit, or V on CONFIG. -/
theorem badBits_iff (w : Word) :
    (rsvField w ≠ 0#23 ∨ (opcField w = 0x01#8 ∧ vField w = true)) ↔
      512 ≤ w.toNat ∨ (w.toNat % 256 = 1 ∧ w.toNat / 256 % 2 = 1) :=
  or_congr (rsvField_ne_zero_iff w) (and_congr (opcField_eq_iff w 0x01#8) (vField_eq_true_iff w))

/-! ### DECODE -/

/-- Settles O14: the conditions of DECODE, read as numbers, are those of the statement, and each branch is one `raise` or one
`goTo`. -/
theorem decodePhaseBranches : Obligations.DecodePhaseBranches := by
  intro s
  refine ⟨_, rfl, ?_⟩
  simp only [badOpc_iff, badBits_iff]
  simp only [opcField_eq_iff, BitVec.reduceToNat]
  split_ifs with hknown hbits hconfig hencrypt
  · exact s.raise_raised .badBits
  · exact s.goTo_advanced Phase.cCheck
  · exact s.goTo_advanced Phase.eCheck
  · exact s.goTo_advanced Phase.dCheck
  · exact s.raise_raised .badOpc

end Sys2Proof.Machine
end

section
/-!
SUPPORT. What the checks of C_CHECK find, with the staged lengths read as numbers and the staged entries by their slots (R131), and
the statement O17 about the phase.
-/

namespace Sys2Proof.Machine

/-- The entries in use are the slots below S_NLEG: a check of any of them examines those slots and no other (R131). -/
theorem any_stagedUsed_iff (s : State) (check : StagedEntry → Bool) :
    s.stagedUsed.any check = true ↔ ∃ i < s.sNleg.toNat, check (s.slot i) = true := by
  simp [State.stagedUsed]

theorem any_stagedUsed_keyLen_iff (s : State) (capacity : Nat) :
    s.stagedUsed.any (fun e => capacity < e.keyLen.toNat) = true ↔
      ∃ i < s.sNleg.toNat, capacity < (s.slot i).keyLen.toNat := by
  simp only [any_stagedUsed_iff, decide_eq_true_iff]

/-- A tag length is 6 when its number is. -/
theorem tagLength_ne_six_iff (len : BitVec 8) : len ≠ 6#8 ↔ len.toNat ≠ 6 := BitVec.toNat_ne_iff_ne.symm

theorem any_stagedUsed_tagLen_iff (s : State) :
    s.stagedUsed.any (fun e => e.tagLen ≠ 6#8) = true ↔ ∃ i < s.sNleg.toNat, (s.slot i).tagLen.toNat ≠ 6 := by
  simp only [any_stagedUsed_iff, decide_eq_true_iff, tagLength_ne_six_iff]

/-- A staged length or count above its capacity is found first, whatever the tags are (R131). -/
theorem cCheckError_of_overCapacity {p : Config.Params} {s : State}
    (h : p.mkeyMax < s.sMkeyLen.toNat ∨ p.nlegMax < s.sNleg.toNat ∨
      ∃ i < s.sNleg.toNat, p.lkeyMax < (s.slot i).keyLen.toNat) :
    cCheckError p s = some .badLen := by
  rw [← or_assoc, ← any_stagedUsed_keyLen_iff] at h
  unfold cCheckError
  obtain hsizes | hlkey := h
  · exact if_pos hsizes
  · rw [if_pos hlkey, ite_self]

/-- With every length within its capacity the tags decide, the current one before the legacy ones (R131). -/
theorem cCheckError_of_withinCapacity {p : Config.Params} {s : State} (hmkey : s.sMkeyLen.toNat ≤ p.mkeyMax)
    (hnleg : s.sNleg.toNat ≤ p.nlegMax) (hlkey : ∀ i < s.sNleg.toNat, (s.slot i).keyLen.toNat ≤ p.lkeyMax) :
    cCheckError p s =
      if s.sCurTagLen.toNat ≠ 6 then some .tagLengthCur
      else if ∃ i < s.sNleg.toNat, (s.slot i).tagLen.toNat ≠ 6 then some .tagLengthLeg
      else none := by
  have hsizes : ¬ (p.mkeyMax < s.sMkeyLen.toNat ∨ p.nlegMax < s.sNleg.toNat) := by omega
  have hkeys : ¬ ∃ i < s.sNleg.toNat, p.lkeyMax < (s.slot i).keyLen.toNat :=
    fun ⟨i, hi, hlong⟩ => Nat.not_lt.mpr (hlkey i hi) hlong
  unfold cCheckError
  rw [if_neg hsizes, if_neg (mt (any_stagedUsed_keyLen_iff ..).mp hkeys)]
  simp only [any_stagedUsed_tagLen_iff]
  simp only [tagLength_ne_six_iff]

/-- Settles O17: the first failing check names the error that is raised, and with none the phase goes on to C_COMMIT. -/
theorem configCheckOrder : Obligations.ConfigCheckOrder := by
  intro s
  refine ⟨_, rfl, fun hover => ?_, fun hmkey hnleg hlkey => ?_⟩
  · rw [cCheckError_of_overCapacity hover]
    exact s.raise_raised .badLen
  · rw [cCheckError_of_withinCapacity hmkey hnleg hlkey]
    refine ⟨fun hcur => ?_, fun hcur hleg => ?_, fun hcur hleg => ?_⟩
    · rw [if_pos hcur]
      exact s.raise_raised .tagLengthCur
    · rw [if_neg (not_not.mpr hcur), if_pos hleg]
      exact s.raise_raised .tagLengthLeg
    · have hnone : ¬ ∃ i < s.sNleg.toNat, (s.slot i).tagLen.toNat ≠ 6 := fun ⟨i, hi, hne⟩ => hne (hleg i hi)
      rw [if_neg (not_not.mpr hcur), if_neg hnone]
      exact s.goTo_advanced Phase.cCommit

end Sys2Proof.Machine
end

section
/-!
SUPPORT. What SUNPAD and ZTRUNC answer, and the statement O38 about the two phases that end a decryption with them, UNPAD and
L_TRUNC (R172, R174, R287, R288).
-/

namespace Sys2Proof.Machine

/-! ### The two codecs -/

@[simp] theorem sunpad_nil : sunpad [] = .error .unpadEmpty := rfl

/-- SUNPAD on a buffer that is not empty: the last byte, as a number, decides alone (R172, R173). -/
theorem sunpad_concat (init : ByteString) (n : Byte) :
    sunpad (init ++ [n]) =
      if n.toNat = 0 ∨ init.length + 1 < n.toNat then .error .paddingInvalid
      else .ok ((init ++ [n]).take ((init ++ [n]).length - n.toNat)) := by
  have hzero : n = 0#8 ↔ n.toNat = 0 := BitVec.toNat_inj.symm
  simp only [sunpad, List.getLast?_concat, hzero, List.length_append, List.length_singleton]

theorem ztrunc_of_lt {b : ByteString} {len : Nat} (h : b.length < len) : ztrunc b len = .error .elenRange := if_pos h

theorem ztrunc_of_le {b : ByteString} {len : Nat} (h : len ≤ b.length) : ztrunc b len = .ok (b.take len) :=
  if_neg (Nat.not_lt.mpr h)

/-- The first `len` bytes of a prefix that has them are the first `len` bytes of the buffer. -/
theorem ztrunc_take_of_le {b : ByteString} {plen len : Nat} (hprefix : plen ≤ b.length) (h : len ≤ plen) :
    ztrunc (b.take plen) len = .ok (b.take len) := by
  rw [ztrunc_of_le (by rwa [List.length_take_of_le hprefix]), List.take_take, Nat.min_eq_left h]

/-! ### The phases that end with a codec's answer -/

/-- The state after a phase that hands a codec's answer to FINISH: the error is raised, or WORK takes the string. -/
def State.deliver (s : State) (r : Except ErrorCause ByteString) : State :=
  match r with
  | .error e => s.raise e
  | .ok v => { s with wk.work := v, phase := Phase.finish }

theorem exec_unpad (s : State) : exec .unpad s = .next (s.deliver (sunpad s.wk.work)) := rfl

theorem exec_lTrunc (s : State) :
    exec .lTrunc s = .next (s.deliver (ztrunc (s.wk.work.take s.wk.plen) s.wk.elen)) := rfl

theorem State.deliver_error (s : State) (e : ErrorCause) : Raised s e.code (s.deliver (.error e)) := s.raise_raised e

theorem State.deliver_ok (s : State) (v : ByteString) :
    SameBytes s (s.deliver (.ok v)) ∧
      s.deliver (.ok v) = { s with phase := 26#5, wk := { s.wk with work := v } } :=
  ⟨SameBytes.refl s, rfl⟩

/-- Settles O38: each phase delivers its codec's answer. SUNPAD's is read off the split of WORK before its last byte, ZTRUNC's
off the comparison of ELEN with PLEN, which is the prefix's length. -/
theorem paddingIsStripped : Obligations.PaddingIsStripped := by
  intro s
  refine ⟨⟨_, exec_unpad s, fun hempty => ?_, fun init n hwork => ?_⟩,
    fun hprefix => ⟨_, exec_lTrunc s, fun hbeyond => ?_, fun hwithin => ?_⟩⟩
  · rw [hempty, sunpad_nil]
    exact s.deliver_error .unpadEmpty
  · rw [hwork, sunpad_concat]
    split_ifs with hcount
    · exact s.deliver_error .paddingInvalid
    · exact s.deliver_ok _
  · rw [ztrunc_of_lt (by rwa [List.length_take_of_le hprefix])]
    exact s.deliver_error .elenRange
  · rw [ztrunc_take_of_le hprefix hwithin]
    exact s.deliver_ok _

end Sys2Proof.Machine
end

section
/-!
SUPPORT. The two phases that take the framing of a ciphertext string apart, TAGSPLIT and IVSPLIT (R217, R259), and the statement O34
about them.
-/

namespace Sys2Proof.Machine

/-- The tag of the input is its leading 6 bytes, unpadded: a space has a byte at every offset (R60). -/
theorem State.inputTag_val (s : State) : s.inputTag.val = s.inbuf.readBytes 0 6 :=
  Bytes.ofList_val 6 _ (Memory.readBytes_length ..)

/-! ### The state after a split -/

/-- The state with the tag of the input in TAGR, at SELECT (R217). -/
def State.splitTag (s : State) : State := { s with wk.tagr := s.inputTag, phase := Phase.select }

/-- The state with WORK split into IVR and the rest, at KDF_INIT (R259). -/
def State.splitIv (s : State) : State :=
  { s with wk.ivr := Bytes.ofList 16 s.wk.work, wk.work := s.wk.work.drop 16, phase := Phase.kdfInit }

theorem exec_tagsplit (s : State) :
    exec .tagsplit s = .next (if s.inLen.toNat < 6 then s.raise .tagShort else s.splitTag) := rfl

theorem exec_ivsplit (s : State) :
    exec .ivsplit s = .next (if s.wk.work.length < 16 then s.raise .ivShort else s.splitIv) := rfl

/-- All that splitting off the tag does. -/
theorem State.splitTag_spec (s : State) :
    SameBytes s s.splitTag ∧ s.splitTag = { s with phase := 15#5, wk := { s.wk with tagr := s.splitTag.wk.tagr } } ∧
      s.splitTag.wk.tagr.val = s.inbuf.readBytes 0 6 :=
  ⟨SameBytes.refl s, rfl, s.inputTag_val⟩

/-- All that splitting off the IV does, when WORK has 16 bytes for it. -/
theorem State.splitIv_spec (s : State) (h : 16 ≤ s.wk.work.length) :
    SameBytes s s.splitIv ∧
      s.splitIv = { s with phase := 6#5, wk := { s.wk with ivr := s.splitIv.wk.ivr, work := s.wk.work.drop 16 } } ∧
      s.splitIv.wk.ivr.val = s.wk.work.take 16 :=
  ⟨SameBytes.refl s, rfl, Bytes.ofList_val_of_le 16 _ h⟩

/-- Settles O34: each phase compares one length with one bound, and either raises or splits. -/
theorem tagAndIvAreSplitOff : Obligations.TagAndIvAreSplitOff := by
  intro s
  refine ⟨⟨_, exec_tagsplit s, fun hshort => ?_, fun hlong => ?_⟩, ⟨_, exec_ivsplit s, fun hshort => ?_, fun hlong => ?_⟩⟩
  · rw [if_pos hshort]
    exact s.raise_raised .tagShort
  · rw [if_neg (Nat.not_lt.mpr hlong)]
    exact s.splitTag_spec
  · rw [if_pos hshort]
    exact s.raise_raised .ivShort
  · rw [if_neg (Nat.not_lt.mpr hlong)]
    exact s.splitIv_spec hlong

end Sys2Proof.Machine
end

section
/-!
SUPPORT. Each codec of the current path undoes its counterpart: SUNPAD after SPAD (R175), B64D after B64E (R215), CBC_DEC after CBC_ENC
(R197).
-/

namespace Sys2Proof.Machine

/-! ### Size-padding (R170, R172) -/

theorem spadCount_pos (n : Nat) : 1 ≤ spadCount n := by unfold spadCount; omega

theorem spadCount_le (n : Nat) : spadCount n ≤ 16 := Nat.sub_le ..

/-- The last byte of a padded string is the count, and the count is what SUNPAD strips. -/
theorem sunpad_spad (x : ByteString) : sunpad (spad x) = .ok x := by
  obtain ⟨n, hn⟩ := Nat.exists_eq_add_of_le' (spadCount_pos x.length)
  have hle := spadCount_le x.length
  have hcount : (BitVec.ofNat 8 (n + 1)).toNat = n + 1 := by
    rw [BitVec.toNat_ofNat]
    omega
  have hlast : spad x = (x ++ List.replicate n (BitVec.ofNat 8 (n + 1))) ++ [BitVec.ofNat 8 (n + 1)] := by
    rw [spad, hn, List.replicate_succ', List.append_assoc]
  rw [hlast, sunpad_concat, hcount, if_neg (by simp)]
  simp

/-! ### The base64 alphabet (R211) -/

theorem b64Val_b64Char {v : Nat} (hv : v < 64) : b64Val (b64Char v) = some v := by
  have table : ∀ v < 64, b64Val (b64Char v) = some v := by decide
  exact table v hv

/-- A character with a value is none of those without: the pad character, CR, LF. -/
theorem b64Char_ne {v : Nat} (hv : v < 64) {c : Byte} (hc : b64Val c = none) : b64Char v ≠ c := by
  rintro rfl
  rw [b64Val_b64Char hv] at hc
  cases hc

/-! ### One group (R212, R213) -/

/-- A group of `3 - pads` bytes, as the number `g` with zeros below them, is decoded from its characters; what follows them does not
matter, and the zeros meet the strict setting too. -/
theorem b64DecodeGroup_b64Chars (strict : Bool) {g pads : Nat} (hpads : pads < 3) (hg : g < 2 ^ 24)
    (hzero : g % 256 ^ pads = 0) (rest : ByteString) :
    b64DecodeGroup strict (b64Chars (4 - pads) g ++ rest) pads = some ((beBytes 3 g).take (3 - pads)) := by
  have hgroup : b64Group (b64Chars (4 - pads) g ++ rest) (4 - pads) = some g := by
    have h0 : g / 262144 % 64 < 64 := Nat.mod_lt _ (by omega)
    have h1 : g / 4096 % 64 < 64 := Nat.mod_lt _ (by omega)
    have h2 : g / 64 % 64 < 64 := Nat.mod_lt _ (by omega)
    have h3 : g % 64 < 64 := Nat.mod_lt _ (by omega)
    interval_cases pads <;>
      simp [b64Group, b64Chars, b64Val_b64Char h0, b64Val_b64Char h1, b64Val_b64Char h2, b64Val_b64Char h3] at hzero ⊢ <;> omega
  simp only [b64DecodeGroup, hgroup, hzero, ne_eq, not_true_eq_false, and_false, if_false]

/-- The three bytes of a group's number. -/
theorem beBytes_group (b0 b1 b2 : Byte) : beBytes 3 (b0.toNat * 65536 + b1.toNat * 256 + b2.toNat) = [b0, b1, b2] := by
  have h1 := b1.isLt
  have h2 := b2.isLt
  have hdiv0 : BitVec.ofNat 8 ((b0.toNat * 65536 + b1.toNat * 256 + b2.toNat) / 65536) = b0 := by
    apply BitVec.eq_of_toNat_eq
    rw [BitVec.toNat_ofNat]
    omega
  have hdiv1 : BitVec.ofNat 8 ((b0.toNat * 65536 + b1.toNat * 256 + b2.toNat) / 256) = b1 := by
    apply BitVec.eq_of_toNat_eq
    rw [BitVec.toNat_ofNat]
    omega
  have hdiv2 : BitVec.ofNat 8 (b0.toNat * 65536 + b1.toNat * 256 + b2.toNat) = b2 := by
    apply BitVec.eq_of_toNat_eq
    rw [BitVec.toNat_ofNat]
    omega
  simp [beBytes, List.range_succ, hdiv0, hdiv1, hdiv2]

theorem b64Pads_none (c2 : Byte) {v : Nat} (hv : v < 64) : b64Pads c2 (b64Char v) = 0 := by
  simp [b64Pads, b64Char_ne hv (c := b64Pad) rfl]

theorem b64Pads_one {v : Nat} (hv : v < 64) : b64Pads (b64Char v) b64Pad = 1 := by
  simp [b64Pads, b64Char_ne hv (c := b64Pad) rfl]

theorem b64Pads_two : b64Pads b64Pad b64Pad = 2 := rfl

/-! ### The whole string (R212, R213) -/

/-- The last group tells by its pad characters how many bytes it holds. -/
theorem b64Groups_last (strict : Bool) {c0 c1 c2 c3 : Byte} {pads : Nat} (h : b64Pads c2 c3 = pads) :
    b64Groups strict [c0, c1, c2, c3] = b64DecodeGroup strict [c0, c1, c2, c3] pads := by
  simp only [b64Groups, h]

/-- A group that others follow holds no pad character. -/
theorem b64Groups_of_more {strict : Bool} {c0 c1 c2 c3 : Byte} {rest x y : ByteString} (hrest : rest ≠ [])
    (hx : b64DecodeGroup strict [c0, c1, c2, c3] 0 = some x) (hy : b64Groups strict rest = some y) :
    b64Groups strict (c0 :: c1 :: c2 :: c3 :: rest) = some (x ++ y) := by
  cases rest with
  | nil => exact absurd rfl hrest
  | cons d rest => simp only [b64Groups, hx, hy]

theorem b64Encode_eq_nil_iff (x : ByteString) : b64Encode x = [] ↔ x = [] := by
  constructor
  · intro h
    unfold b64Encode at h
    split at h <;> simp_all [b64Chars]
  · rintro rfl
    rfl

/-- Decoding the groups undoes the encoding, group by group. -/
theorem b64Groups_b64Encode (strict : Bool) : ∀ x : ByteString, b64Groups strict (b64Encode x) = some x
  | [] => rfl
  | [b0] => by
    have hlt := b0.isLt
    have hgroup := b64DecodeGroup_b64Chars strict (g := b0.toNat * 65536) (pads := 2) (by omega) (by omega) (by omega)
      [b64Pad, b64Pad]
    have hbytes := beBytes_group b0 0#8 0#8
    simp only [BitVec.reduceToNat, Nat.zero_mul, Nat.add_zero] at hbytes
    rw [hbytes] at hgroup
    exact (b64Groups_last strict b64Pads_two).trans hgroup
  | [b0, b1] => by
    have hlt0 := b0.isLt
    have hlt1 := b1.isLt
    have hgroup := b64DecodeGroup_b64Chars strict (g := b0.toNat * 65536 + b1.toNat * 256) (pads := 1) (by omega) (by omega)
      (by omega) [b64Pad]
    have hbytes := beBytes_group b0 b1 0#8
    simp only [BitVec.reduceToNat, Nat.add_zero] at hbytes
    rw [hbytes] at hgroup
    exact (b64Groups_last strict (b64Pads_one (Nat.mod_lt _ (by omega)))).trans hgroup
  | b0 :: b1 :: b2 :: rest => by
    have hlt0 := b0.isLt
    have hlt1 := b1.isLt
    have hlt2 := b2.isLt
    have hgroup := b64DecodeGroup_b64Chars strict (g := b0.toNat * 65536 + b1.toNat * 256 + b2.toNat) (pads := 0) (by omega)
      (by omega) (by omega) []
    rw [beBytes_group, List.append_nil] at hgroup
    by_cases hrest : rest = []
    · subst hrest
      exact (b64Groups_last strict (b64Pads_none _ (Nat.mod_lt _ (by omega)))).trans hgroup
    · exact b64Groups_of_more (mt (b64Encode_eq_nil_iff rest).mp hrest) hgroup (b64Groups_b64Encode strict rest)

theorem b64Encode_length : ∀ x : ByteString, (b64Encode x).length = 4 * ((x.length + 2) / 3)
  | [] => rfl
  | [_] => by simp [b64Encode, b64Chars]
  | [_, _] => by simp [b64Encode, b64Chars]
  | b0 :: b1 :: b2 :: rest => by
    have ih := b64Encode_length rest
    simp only [b64Encode, b64Chars, List.length_append, List.length_take, List.length_cons, List.length_nil, ih]
    omega

theorem mem_b64Chars {n g : Nat} {c : Byte} (h : c ∈ b64Chars n g) : ∃ v < 64, c = b64Char v := by
  have hmem := List.mem_of_mem_take h
  simp only [List.mem_cons, List.not_mem_nil, or_false] at hmem
  obtain rfl | rfl | rfl | rfl := hmem <;> exact ⟨_, Nat.mod_lt _ (by omega), rfl⟩

/-- Every character of an encoded string is of the alphabet or the pad character. -/
theorem mem_b64Encode : ∀ {x : ByteString} {c : Byte}, c ∈ b64Encode x → c = b64Pad ∨ ∃ v < 64, c = b64Char v
  | [], _, h => by cases h
  | [_], _, h => by
    obtain h | h := List.mem_append.mp h
    · exact .inr (mem_b64Chars h)
    · exact .inl (by simpa using h)
  | [_, _], _, h => by
    obtain h | h := List.mem_append.mp h
    · exact .inr (mem_b64Chars h)
    · exact .inl (by simpa using h)
  | _ :: _ :: _ :: _, _, h => by
    obtain h | h := List.mem_append.mp h
    · exact .inr (mem_b64Chars h)
    · exact mem_b64Encode h

/-- The decoder drops nothing of an encoded string: it holds no CR and no LF. -/
theorem b64Text_b64Encode (p : Config.Params) (x : ByteString) : b64Text p (b64Encode x) = b64Encode x := by
  have hkept : ∀ c ∈ b64Encode x, c ≠ 0x0d#8 ∧ c ≠ 0x0a#8 := by
    intro c hc
    obtain rfl | ⟨v, hv, rfl⟩ := mem_b64Encode hc
    · decide
    · exact ⟨b64Char_ne hv rfl, b64Char_ne hv rfl⟩
  unfold b64Text
  split
  · exact List.filter_eq_self.mpr (by simpa using hkept)
  · rfl

theorem b64Decode_b64Encode (p : Config.Params) (x : ByteString) : b64Decode p (b64Encode x) = .ok x := by
  rw [b64Decode, b64Text_b64Encode, b64Encode_length, if_neg (by omega), b64Groups_b64Encode]

/-! ### Chaining (R193, R194) -/

theorem cbcDecBlocks_cbcEncBlocks {bc : Config.BlockCipher} {k : ByteString} (hinv : ∀ x, bc.dec k (bc.enc k x) = x)
    (prev : Bytes 16) (xs : List (Bytes 16)) : cbcDecBlocks bc k prev (cbcEncBlocks bc k prev xs) = xs := by
  induction xs generalizing prev with
  | nil => rfl
  | cons x xs ih => rw [cbcEncBlocks, cbcDecBlocks, hinv, xorReg_cancel, ih]

theorem cbcDec_cbcEnc {bc : Config.BlockCipher} (hbc : bc.Lawful) {k : ByteString} (hk : Config.ValidKey k) (iv : Bytes 16)
    {x : ByteString} (hx : x.length % 16 = 0) : cbcDec bc k iv (cbcEnc bc k iv x) = .ok x := by
  rw [cbcDec, cbcEnc_length, if_neg (not_not.mpr hx), cbcEnc_of_aligned _ _ _ _ hx, blocks_joinBlocks,
    cbcDecBlocks_cbcEncBlocks fun y => (hbc k hk y).1, joinBlocks_blocks x hx]

end Sys2Proof.Machine
end

section
/-!
SUPPORT. The inverse laws of AES (R191, R306, R307): each transformation of a round is undone by its counterpart, and so is a run of
rounds, whatever the round keys.
-/

namespace Sys2Proof.Machine

/-! ### Multiplication by a constant (R302) -/

/-- Doubling is linear: the reduction is by exclusive-or. -/
theorem xtime_xor (a b : Byte) : xtime (a ^^^ b) = xtime a ^^^ xtime b := by
  simp only [xtime, BitVec.msb_xor, BitVec.shiftLeft_xor_distrib]
  cases a.msb <;> cases b.msb <;> grind

/-- Each of the four terms of a product is linear when doubling is. -/
theorem ite_xor_zero (c : Prop) [Decidable c] (a b : Byte) :
    (if c then a ^^^ b else 0#8) = (if c then a else 0#8) ^^^ (if c then b else 0#8) := by
  split <;> simp

theorem gfMul_xor (m : Nat) (a b : Byte) : gfMul m (a ^^^ b) = gfMul m a ^^^ gfMul m b := by
  simp only [gfMul, xtime_xor, ite_xor_zero]
  ac_rfl

/-! ### Blocks by their cells (R301) -/

theorem cellAt_blockOf (f : Nat → Nat → Byte) {r c : Nat} (hr : r < 4) (hc : c < 4) : cellAt (blockOf f) r c = f r c := by
  have hi : r + 4 * c < 16 := by omega
  have hmod : (r + 4 * c) % 4 = r := by omega
  have hdiv : (r + 4 * c) / 4 = c := by omega
  simp [cellAt, blockOf, hi, hmod, hdiv]

/-- A block is rebuilt from its sixteen cells. -/
theorem blockOf_eq {f : Nat → Nat → Byte} {s : Bytes 16} (h : ∀ r < 4, ∀ c < 4, f r c = cellAt s r c) : blockOf f = s := by
  apply Subtype.ext
  apply List.ext_getElem
  · rw [(blockOf f).property, s.property]
  · intro i hi hs
    have hi16 : i < 16 := by simpa [s.property] using hs
    have hindex : i % 4 + 4 * (i / 4) = i := by omega
    simp [blockOf, h (i % 4) (by omega) (i / 4) (by omega), cellAt, hindex, hs]

/-! ### The columns (R306, R307) -/

/-- What a byte of a column adds to the byte `k` rows above it, when the column is multiplied by the matrix with first row `n` and
then by the one with first row `m`. -/
def mixTerm (m n : List Nat) (k : Nat) (x : Byte) : Byte :=
  gfMul (m.getD 0 0) (gfMul (n.getD k 0) x) ^^^ gfMul (m.getD 1 0) (gfMul (n.getD ((k + 3) % 4) 0) x)
    ^^^ gfMul (m.getD 2 0) (gfMul (n.getD ((k + 2) % 4) 0) x) ^^^ gfMul (m.getD 3 0) (gfMul (n.getD ((k + 1) % 4) 0) x)

/-- The product of the matrices with first rows `m` and `n` is the unit matrix. -/
def MixInverse (m n : List Nat) : Prop := ∀ k < 4, ∀ x, mixTerm m n k x = if k = 0 then x else 0#8

/-- Written out in doublings of the byte, every other term occurs an even number of times. -/
theorem invMix_mix_inverse : MixInverse [14, 11, 13, 9] [2, 3, 1, 1] := by
  intro k hk x
  interval_cases k <;> simp [mixTerm, gfMul, xtime_xor] <;> grind

theorem mix_invMix_inverse : MixInverse [2, 3, 1, 1] [14, 11, 13, 9] := by
  intro k hk x
  interval_cases k <;> simp [mixTerm, gfMul, xtime_xor] <;> grind

/-- A cell of a column multiplied twice, its terms gathered by the byte that they come from. -/
theorem mixCell_mixCell (m n : List Nat) (s : Bytes 16) {r c : Nat} (hr : r < 4) (hc : c < 4) :
    mixCell m (blockOf (mixCell n s)) r c =
      mixTerm m n 0 (cellAt s r c) ^^^ mixTerm m n 1 (cellAt s ((r + 1) % 4) c)
        ^^^ mixTerm m n 2 (cellAt s ((r + 2) % 4) c) ^^^ mixTerm m n 3 (cellAt s ((r + 3) % 4) c) := by
  unfold mixCell
  simp only [cellAt_blockOf, hc, Nat.reduceLT, gfMul_xor, mixTerm]
  interval_cases r <;> dsimp only [Nat.reduceAdd, Nat.reduceSub, Nat.reduceMod] <;> ac_rfl

theorem blockOf_mixCell_cancel {m n : List Nat} (h : MixInverse m n) (s : Bytes 16) :
    blockOf (mixCell m (blockOf (mixCell n s))) = s := by
  refine blockOf_eq fun r hr c hc => ?_
  rw [mixCell_mixCell m n s hr hc, h 0 (by omega), h 1 (by omega), h 2 (by omega), h 3 (by omega)]
  simp

theorem invMixColumns_mixColumns (s : Bytes 16) : invMixColumns (mixColumns s) = s :=
  blockOf_mixCell_cancel invMix_mix_inverse s

theorem mixColumns_invMixColumns (s : Bytes 16) : mixColumns (invMixColumns s) = s :=
  blockOf_mixCell_cancel mix_invMix_inverse s

/-! ### The bytes and the rows (R303, R304, R306, R307) -/

theorem invSbox_sbox (x : Byte) : invSbox (sbox x) = x := by
  have table : ∀ x : Byte, invSbox (sbox x) = x := by decide
  exact table x

theorem sbox_invSbox (x : Byte) : sbox (invSbox x) = x := by
  have table : ∀ x : Byte, sbox (invSbox x) = x := by decide
  exact table x

theorem invSubBytes_subBytes (s : Bytes 16) : invSubBytes (subBytes s) = s := by
  apply Subtype.ext
  simp [invSubBytes, subBytes, Function.comp_def, invSbox_sbox]

theorem subBytes_invSubBytes (s : Bytes 16) : subBytes (invSubBytes s) = s := by
  apply Subtype.ext
  simp [invSubBytes, subBytes, Function.comp_def, sbox_invSbox]

/-- Rotating a row left and then right by its number brings every byte back. -/
theorem invShiftRows_shiftRows (s : Bytes 16) : invShiftRows (shiftRows s) = s := by
  refine blockOf_eq fun r hr c hc => ?_
  have hback : ((c + 4 - r) % 4 + r) % 4 = c := by omega
  rw [shiftRows, cellAt_blockOf _ hr (Nat.mod_lt _ (by omega)), hback]

theorem shiftRows_invShiftRows (s : Bytes 16) : shiftRows (invShiftRows s) = s := by
  refine blockOf_eq fun r hr c hc => ?_
  have hback : ((c + r) % 4 + 4 - r) % 4 = c := by omega
  rw [invShiftRows, cellAt_blockOf _ hr (Nat.mod_lt _ (by omega)), hback]

/-! ### The rounds (R306, R307) -/

/-- The substitution of a round: SubBytes, then ShiftRows. -/
def subShift (s : Bytes 16) : Bytes 16 := shiftRows (subBytes s)

/-- Its counterpart in decryption: InvShiftRows, then InvSubBytes. -/
def invSubShift (s : Bytes 16) : Bytes 16 := invSubBytes (invShiftRows s)

theorem invSubShift_subShift (s : Bytes 16) : invSubShift (subShift s) = s := by
  rw [invSubShift, subShift, invShiftRows_shiftRows, invSubBytes_subBytes]

theorem subShift_invSubShift (s : Bytes 16) : subShift (invSubShift s) = s := by
  rw [invSubShift, subShift, subBytes_invSubBytes, shiftRows_invShiftRows]

theorem encRound_eq (s k : Bytes 16) : encRound s k = xorReg (mixColumns (subShift s)) k := rfl

theorem decRound_eq (s k : Bytes 16) : decRound s k = invMixColumns (xorReg (invSubShift s) k) := rfl

theorem encWith_eq (first last x : Bytes 16) (middle : List (Bytes 16)) :
    encWith first middle last x = xorReg (subShift (middle.foldl encRound (xorReg x first))) last := rfl

theorem decWith_eq (first last x : Bytes 16) (middle : List (Bytes 16)) :
    decWith first middle last x = xorReg (invSubShift (middle.reverse.foldl decRound (xorReg x last))) first := rfl

/-- A decryption round takes the substituted result of an encryption round to the substituted block that it began with. -/
theorem decRound_encRound (s k : Bytes 16) : decRound (subShift (encRound s k)) k = subShift s := by
  rw [decRound_eq, invSubShift_subShift, encRound_eq, xorReg_cancel, invMixColumns_mixColumns]

theorem encRound_decRound (s k : Bytes 16) : encRound (invSubShift (decRound s k)) k = invSubShift s := by
  rw [encRound_eq, subShift_invSubShift, decRound_eq, mixColumns_invMixColumns, xorReg_cancel]

theorem decRounds_encRounds (ks : List (Bytes 16)) (s : Bytes 16) :
    ks.reverse.foldl decRound (subShift (ks.foldl encRound s)) = subShift s := by
  induction ks generalizing s with
  | nil => rfl
  | cons k ks ih => rw [List.foldl_cons, List.reverse_cons, List.foldl_append, ih, List.foldl_cons, decRound_encRound]; rfl

theorem encRounds_decRounds (ks : List (Bytes 16)) (s : Bytes 16) :
    ks.foldl encRound (invSubShift (ks.reverse.foldl decRound s)) = invSubShift s := by
  induction ks with
  | nil => rfl
  | cons k ks ih =>
    rw [List.foldl_cons, List.reverse_cons, List.foldl_append, List.foldl_cons, List.foldl_nil, encRound_decRound, ih]

theorem decWith_encWith (first last x : Bytes 16) (middle : List (Bytes 16)) :
    decWith first middle last (encWith first middle last x) = x := by
  rw [decWith_eq, encWith_eq, xorReg_cancel, decRounds_encRounds, invSubShift_subShift, xorReg_cancel]

theorem encWith_decWith (first last x : Bytes 16) (middle : List (Bytes 16)) :
    encWith first middle last (decWith first middle last x) = x := by
  rw [encWith_eq, decWith_eq, xorReg_cancel, encRounds_decRounds, subShift_invSubShift, xorReg_cancel]

/-- AES has the two inverse laws (R191). The key schedule plays no part: both directions use the same round keys. -/
theorem aes_lawful : aes.Lawful := by
  intro k hk x
  have henc (y : Bytes 16) : aes.enc k y = _ := if_pos hk
  have hdec (y : Bytes 16) : aes.dec k y = _ := if_pos hk
  rw [henc, hdec, hdec, henc]
  exact ⟨decWith_encWith .., encWith_decWith ..⟩

/-- The default parameters meet the constraints of R10. -/
theorem params_ok : params.Ok where
  inMax := by simp
  outMax := ⟨le_rfl, by simp⟩
  mkeyMax := by simp
  lkeyMax := by simp
  nlegMax := by simp
  stagMax := rfl
  elenBits := by simp
  neng := le_rfl
  bc := aes_lawful

end Sys2Proof.Machine
end

section
/-!
SUPPORT. The phases that check the operands of a command, E_CHECK, D_CHECK and D_KEYCHK (R231, R251, R257), and the statement O25 about
them.
-/

namespace Sys2Proof.Machine

/-- The state after a phase of checks: the first failing one is raised, or the sequencer goes to `target`. -/
def State.checked (s : State) (r : Option ErrorCause) (target : BitVec 5) : State :=
  match r with
  | some e => s.raise e
  | none => s.goTo target

theorem exec_eCheck (s : State) : exec .eCheck s = .next (s.checked (eCheckError params s) Phase.rng) := rfl

theorem exec_dCheck (s : State) : exec .dCheck s = .next (s.checked (dCheckError params s) Phase.tagsplit) := rfl

theorem exec_dKeychk (s : State) :
    exec .dKeychk s = .next (if s.cfg.mkey.length < 32 then s.raise .keyTooShort else s.goTo Phase.b64d) := rfl

/-- Settles O25: the branches of the two chains of checks are those of the statement, and each is one `raise` or one `goTo`. -/
theorem entryChecksInOrder : Obligations.EntryChecksInOrder := by
  intro s
  refine ⟨⟨_, exec_eCheck s, ?_⟩, ⟨_, exec_dCheck s, ?_⟩, ⟨_, exec_dKeychk s, ?_⟩⟩
  · unfold eCheckError Config.mkeyMin
    split_ifs
    · exact s.raise_raised .badLen
    · exact s.raise_raised .notConfigured
    · exact s.raise_raised .keyTooShort
    · exact s.goTo_advanced Phase.rng
  · unfold dCheckError
    split_ifs
    · exact s.raise_raised .badLen
    · exact s.raise_raised .notConfigured
    · exact s.goTo_advanced Phase.tagsplit
  · split_ifs
    · exact s.raise_raised .keyTooShort
    · exact s.goTo_advanced Phase.b64d

end Sys2Proof.Machine
end

section
/-!
SUPPORT. The ciphertext string (R233) and its length (R234), the whole ENCRYPT command when its entry checks pass (R230), and the
statement O31 about it.
-/

namespace Sys2Proof.Machine

/-! ### The ciphertext string -/

/-- The length of a ciphertext string depends on the plaintext's length alone (R234). -/
theorem encText_length (p : Config.Params) (mkey : ByteString) (tag : Bytes 6) (x : ByteString) (iv : Bytes 16) :
    (encText p mkey tag x iv).length = 6 + 4 * ((32 + 16 * (x.length / 16) + 2) / 3) := by
  rw [encText, List.length_append, tag.property, b64Encode_length, List.length_append, iv.property, cbcEnc_length, spad_length]
  omega

/-- The longest ciphertext string fits OUTBUF (R10, R234): the bound on OUT_MAX is its length. -/
theorem encText_fits {p : Config.Params} (hp : p.Ok) {x : ByteString} (hx : x.length ≤ p.inMax) (mkey : ByteString)
    (tag : Bytes 6) (iv : Bytes 16) : (encText p mkey tag x iv).length ≤ p.outMax := by
  have hblocks : x.length / 16 ≤ p.inMax / 16 := Nat.div_le_div_right hx
  have hout : Config.outBound p.inMax ≤ p.outMax := hp.outMax.1
  rw [encText_length]
  unfold Config.outBound at hout
  omega

/-! ### The whole command -/

@[simp] theorem State.override_val (s : State) : s.override.val = s.vtag.readBytes 0 6 :=
  Bytes.ofList_val 6 _ (Memory.readBytes_length ..)

/-- The command word of ENCRYPT or ENCRYPT.V and the tag it puts in front, by V (R92, R216). -/
theorem EncryptForm.exec_eq {s : State} {i : Instr} {w : Word} {tag : ByteString} (h : EncryptForm s i w tag) :
    ∃ v, exec i s = encryptWith params s.nextDraw v s ∧ w = commandWord 0x02#8 v ∧ tag = (s.tagFor v).val := by
  obtain ⟨rfl, rfl, rfl⟩ | ⟨rfl, rfl, rfl⟩ := h
  · exact ⟨false, rfl, rfl, rfl⟩
  · exact ⟨true, rfl, rfl, s.override_val.symm⟩

/-- The state after an ENCRYPT that succeeds: accepted, one draw, then the good end with the ciphertext string (R230). -/
def State.encrypted (p : Config.Params) (iv : Bytes 16) (v : Bool) (s : State) : State :=
  (s.accept (commandWord 0x02#8 v)).afterDraw.endOk p (encText p s.cfg.mkey (s.tagFor v) s.input iv)

/-- ENCRYPT of an idle machine succeeds when its entry checks pass. -/
theorem encryptWith_of_checks {p : Config.Params} {s : State} (hidle : s.stBusy = false) (hchecks : eCheckError p s = none)
    (iv : Bytes 16) (v : Bool) : encryptWith p iv v s = .next (s.encrypted p iv v) := by
  have haccepted : eCheckError p (s.accept (commandWord 0x02#8 v)) = none := hchecks
  rw [encryptWith, if_neg (by simp [hidle]), encryptCommand, haccepted]
  rfl

/-- Everything a successful ENCRYPT changes, when its string fits OUTBUF. -/
theorem State.encrypted_endedOk {p : Config.Params} {s : State} (hp : p.Ok) (h32 : p.outMax < 2 ^ 32)
    (hlen : s.inLen.toNat ≤ p.inMax) (iv : Bytes 16) (v : Bool) :
    EndedOk { s with draws := s.draws + 1 } (commandWord 0x02#8 v) .noBranch
      (encText p s.cfg.mkey (s.tagFor v) s.input iv) (s.encrypted p iv v) :=
  State.accept_endOk p { s with draws := s.draws + 1 } (commandWord 0x02#8 v) .noBranch _
    (encText_fits hp (s.input_length.trans_le hlen) ..) h32

/-- Settles O31: the checks pass, and the string of R233 is what the good end delivers. -/
theorem encryptDeliversTheCiphertext : Obligations.EncryptDeliversTheCiphertext := by
  intro s i w tag hform hidle hlen hvalid hkey
  obtain ⟨v, hexec, rfl, rfl⟩ := hform.exec_eq
  have hchecks : eCheckError params s = none := (eCheckError_eq_none_iff params s).mpr ⟨hlen, hvalid, hkey⟩
  exact ⟨_, hexec.trans (encryptWith_of_checks hidle hchecks s.nextDraw v),
    State.encrypted_endedOk params_ok (by simp) hlen s.nextDraw v⟩

end Sys2Proof.Machine
end

section
/-!
SUPPORT. DECRYPT of a ciphertext string (R236), the whole DECRYPT command when its entry checks pass (R250), and the statement O50, that
the two commands undo each other in the machine.
-/

namespace Sys2Proof.Machine

/-! ### DECRYPT of a ciphertext string -/

/-- The current path takes the string after the tag apart as ENCRYPT put it together: base64, IV, cipher, padding. -/
theorem currentDecrypt_b64Encode {p : Config.Params} (hbc : p.bc.Lawful) {mkey : ByteString} (hkey : 32 ≤ mkey.length)
    (x : ByteString) (iv : Bytes 16) :
    currentDecrypt p mkey (b64Encode (iv.val ++ cbcEnc p.bc (p.kdfn mkey iv.val).val iv (spad x))) = .ok x := by
  have htake (c : ByteString) : (iv.val ++ c).take 16 = iv.val := List.take_left' iv.property
  have hdrop (c : ByteString) : (iv.val ++ c).drop 16 = c := List.drop_left' iv.property
  have hiv (c : ByteString) : Bytes.ofList 16 (iv.val ++ c) = iv :=
    Subtype.ext ((Bytes.ofList_val_of_le 16 _ (by simp [iv.property])).trans (htake c))
  have hlong (c : ByteString) : ¬ (iv.val ++ c).length < 16 := by simp [iv.property]
  have hvalid : Config.ValidKey (p.kdfn mkey iv.val).val := .inr (.inr (p.kdfn mkey iv.val).property)
  have haligned : (spad x).length % 16 = 0 := by rw [spad_length]; omega
  have hmin : ¬ mkey.length < Config.mkeyMin := Nat.not_lt.mpr hkey
  rw [currentDecrypt, if_neg hmin, b64Decode_b64Encode]
  simp only [if_neg (hlong _), htake, hdrop, hiv, cbcDec_cbcEnc hbc hvalid iv haligned, sunpad_spad]

/-- R236 as a function: the string carries the tag that is expected, so the current path is taken. -/
theorem decryptText_encText {p : Config.Params} (hbc : p.bc.Lawful) {cfg : CommittedConfig} (hkey : 32 ≤ cfg.mkey.length)
    (tag : Bytes 6) (x : ByteString) (iv : Bytes 16) :
    decryptText p cfg (encText p cfg.mkey tag x iv) tag = (.current, .ok x) := by
  have hlong : ¬ (encText p cfg.mkey tag x iv).length < 6 := by rw [encText_length]; omega
  have htag : (encText p cfg.mkey tag x iv).take 6 = tag.val := List.take_left' tag.property
  have hpayload : (encText p cfg.mkey tag x iv).drop 6 = _ := List.drop_left' tag.property
  rw [decryptText, if_neg hlong, if_pos htag, hpayload, currentDecrypt_b64Encode hbc hkey]

/-! ### The whole command -/

/-- DECRYPT of an idle machine whose entry checks pass and whose input decrypts: accepted, then the good end on the branch that was
taken (R250). -/
theorem decryptWith_of_decryptText {p : Config.Params} {s : State} (hidle : s.stBusy = false) (hchecks : dCheckError p s = none)
    {v : Bool} {path : Path} {x : ByteString} (htext : decryptText p s.cfg s.input (s.tagFor v) = (path, .ok x)) :
    decryptWith p v s = .next (State.endOk p { s.accept (commandWord 0x03#8 v) with stPath := path } x) := by
  have hcommand : decryptCommand p v (s.accept (commandWord 0x03#8 v)) =
      State.endWith p { s.accept (commandWord 0x03#8 v) with stPath := (decryptText p s.cfg s.input (s.tagFor v)).1 }
        (decryptText p s.cfg s.input (s.tagFor v)).2 := by
    have haccepted : dCheckError p (s.accept (commandWord 0x03#8 v)) = none := hchecks
    rw [decryptCommand, haccepted]
    rfl
  rw [decryptWith, if_neg (by simp [hidle]), hcommand, htext]
  rfl

/-! ### Both commands -/

theorem exec_encryptForm (v : Bool) (s : State) :
    exec (if v then .encryptV else .encrypt) s = encryptWith params s.nextDraw v s := by
  cases v <;> rfl

theorem exec_decryptForm (v : Bool) (s : State) :
    exec (if v then .decryptV else .decrypt) s = decryptWith params v s := by
  cases v <;> rfl

/-- The host puts the result of the last command back as input: OUTBUF and OUT_LEN into INBUF and IN_LEN. -/
def State.feedBack (t : State) : State := { t with inbuf := t.outbuf, inLen := t.outLen }

/-- After a good end the input fed back is the result, if it fits OUTBUF. -/
theorem State.feedBack_endOk_input {p : Config.Params} (s : State) {x : ByteString} (h : x.length ≤ p.outMax)
    (h32 : p.outMax < 2 ^ 32) : (s.endOk p x).feedBack.input = x := by
  have hlen : (outLenOf x.length).toNat = x.length := outLenOf_toNat (by omega)
  show (Memory.fill p.outMax x).readBytes 0 (outLenOf x.length).toNat = x
  rw [hlen, Memory.readBytes_fill p.outMax x h]

/-- R236 in the machine, under any admissible parameters: DECRYPT of the result of ENCRYPT ends well on the current path, with the
plaintext as its result. What is fed back is the ciphertext string, and the tag and the Config are still those of ENCRYPT. -/
theorem decryptWith_feedBack_encrypted {p : Config.Params} {s : State} (hp : p.Ok) (h32 : p.outMax < 2 ^ 32)
    (hvalid : s.cfg.valid = true) (hkey : 32 ≤ s.cfg.mkey.length)
    (hlen : 6 + 4 * ((32 + 16 * (s.inLen.toNat / 16) + 2) / 3) ≤ p.inMax) (iv : Bytes 16) (v : Bool) :
    decryptWith p v (s.encrypted p iv v).feedBack =
      .next (State.endOk p
        { (s.encrypted p iv v).feedBack.accept (commandWord 0x03#8 v) with stPath := .current } s.input) := by
  have hstring := encText_length p s.cfg.mkey (s.tagFor v) s.input iv
  rw [s.input_length] at hstring
  have hfits : (encText p s.cfg.mkey (s.tagFor v) s.input iv).length ≤ p.outMax := by
    have hout := hp.outMax.2
    omega
  have hinput : (s.encrypted p iv v).feedBack.input = encText p s.cfg.mkey (s.tagFor v) s.input iv :=
    State.feedBack_endOk_input _ hfits h32
  have hinLen : (s.encrypted p iv v).feedBack.inLen.toNat ≤ p.inMax := by
    rw [← State.input_length, hinput, hstring]
    exact hlen
  refine decryptWith_of_decryptText rfl ((dCheckError_eq_none_iff ..).mpr ⟨hinLen, hvalid⟩) ?_
  rw [hinput]
  exact decryptText_encText hp.bc hkey (s.tagFor v) s.input iv

/-- A good end with the input as the result leaves the bytes of the input in OUTBUF. -/
theorem State.read_fill_input {n : Nat} (s : State) (h : s.inLen.toNat ≤ n) {k : Nat} (hk : k < s.inLen.toNat) :
    (Memory.fill n s.input).read k = s.inbuf.read k := by
  rw [← s.input_length] at h hk
  rw [Memory.read_fill_of_le n _ h, List.getD_eq_getElem _ _ hk]
  simp only [State.input, Memory.readBytes_getElem, Nat.zero_add]

/-- Settles O50: a plaintext whose ciphertext string fits INBUF fits it too, so both commands pass their checks. -/
theorem machineRoundTrip : Obligations.MachineRoundTrip := by
  intro s v hidle hvalid hkey hlen
  have hin : s.inLen.toNat ≤ params.inMax := by omega
  have hencrypt := encryptWith_of_checks hidle ((eCheckError_eq_none_iff params s).mpr ⟨hin, hvalid, hkey⟩) s.nextDraw v
  have hdecrypt := decryptWith_feedBack_encrypted params_ok (by simp) hvalid hkey hlen s.nextDraw v
  refine ⟨_, _, (exec_encryptForm v s).trans hencrypt, rfl, (exec_decryptForm v _).trans hdecrypt,
    rfl, rfl, rfl, rfl, ?_, fun k hk => ?_⟩
  · apply BitVec.eq_of_toNat_eq
    rw [State.endOk_outLen, s.input_length, outLenOf_toNat s.inLen.isLt]
  · exact s.read_fill_input (hin.trans params_ok.outMax.2) hk

end Sys2Proof.Machine
end

section
/-!
SUPPORT. Two phases of the legacy path, L_KEYFIT and L_SPLIT (R281, R284): the length a fitted key has, the big-endian value of a
string of known length, and the statements O42 and O43.
-/

namespace Sys2Proof.Machine

/-! ### KEYFIT (R281, R282) -/

/-- The smallest of the three key lengths that is not below `n`; 32 where none is. -/
def fittedLength (n : Nat) : Nat := if n ≤ 16 then 16 else if n ≤ 24 then 24 else 32

theorem keyfit_of_lt {lk : ByteString} (h : 32 < lk.length) : keyfit lk = .error .legacyKeyTooLong := by
  obtain ⟨_, herror⟩ | ⟨hfits, _⟩ := keyfit_cases lk
  · exact herror
  · exact absurd h (Nat.not_lt.mpr hfits)

theorem keyfit_of_le {lk : ByteString} (h : lk.length ≤ 32) :
    keyfit lk = .ok (lk ++ zeros (fittedLength lk.length - lk.length)) := by
  unfold keyfit fittedLength
  split_ifs <;> rfl

/-! ### The phase L_KEYFIT -/

/-- The state after L_KEYFIT: KEYFIT's error is raised, or LKFIT takes the fitted key. -/
def State.fitKey (s : State) (r : Except ErrorCause ByteString) : State :=
  match r with
  | .error e => s.raise e
  | .ok k => { s with wk.lkfit := k, phase := Phase.lB64d }

theorem exec_lKeyfit (s : State) : exec .lKeyfit s = .next (s.fitKey (keyfit s.legacyKey)) := rfl

theorem State.fitKey_error (s : State) (e : ErrorCause) : Raised s e.code (s.fitKey (.error e)) := s.raise_raised e

theorem State.fitKey_ok (s : State) (k : ByteString) :
    SameBytes s (s.fitKey (.ok k)) ∧ s.fitKey (.ok k) = { s with phase := 22#5, wk := { s.wk with lkfit := k } } :=
  ⟨SameBytes.refl s, rfl⟩

/-- With an entry under ZeroVe the raw key is that entry's. -/
theorem State.legacyKey_of_lookup {s : State} {lk : ByteString} (h : legLookup s.cfg.legacy Config.reservedTag = some lk) :
    s.legacyKey = lk := by
  rw [State.legacyKey, State.zeroVeKey, h]

/-- Settles O42: the key's length alone decides between KEYFIT's error and the fitted key. -/
theorem legacyKeyIsFitted : Obligations.LegacyKeyIsFitted := by
  intro s lk hlookup
  have hexec := exec_lKeyfit s
  rw [State.legacyKey_of_lookup hlookup] at hexec
  refine ⟨_, hexec, fun hlong => ?_, fun hfits => ?_⟩
  · rw [keyfit_of_lt hlong]
    exact s.fitKey_error .legacyKeyTooLong
  · rw [keyfit_of_le hfits]
    exact s.fitKey_ok _

/-! ### The trailer (R284, R285) -/

theorem beNat_concat (s : ByteString) (b : Byte) : beNat (s ++ [b]) = beNat s * 256 + b.toNat := by
  simp only [beNat, List.foldl_concat]

/-- A string of `n` bytes spells a number of `8*n` bits. -/
theorem beNat_lt (s : ByteString) : beNat s < 2 ^ (8 * s.length) := by
  induction s using List.reverseRecOn with
  | nil => exact Nat.one_pos
  | append_singleton s b ih =>
    have hbyte : b.toNat < 256 := b.isLt
    have hpow : 2 ^ (8 * (s.length + 1)) = 2 ^ (8 * s.length) * 256 := Nat.pow_add 2 (8 * s.length) 8
    rw [beNat_concat, List.length_append, List.length_singleton, hpow]
    omega

/-- The trailer has at most 15 bytes, so 120 bits hold its value (R285). -/
theorem beNat_trailer_lt (buf : ByteString) : beNat (buf.drop (prefixLength buf.length)) < 2 ^ 120 := by
  have hlength : (buf.drop (prefixLength buf.length)).length ≤ 15 := by
    obtain ⟨_, _, hrest⟩ := prefixLength_spec buf.length
    rwa [List.length_drop]
  have hbits : 8 * (buf.drop (prefixLength buf.length)).length ≤ 120 := by omega
  exact (beNat_lt _).trans_le (Nat.pow_le_pow_right two_pos hbits)

/-- An accumulator of 120 bits or more never cuts the value of the trailer. -/
theorem trailerLength_eq_beNat {p : Config.Params} (h : 120 ≤ p.elenBits) (buf : ByteString) :
    trailerLength p buf = beNat (buf.drop (prefixLength buf.length)) :=
  Nat.mod_eq_of_lt ((beNat_trailer_lt buf).trans_le (Nat.pow_le_pow_right two_pos h))

/-! ### The phase L_SPLIT -/

/-- The state with WORK split into the block-aligned prefix and the length that the trailer spells, at L_CBCD (R284). -/
def State.splitTrailer (p : Config.Params) (s : State) : State :=
  { s with
    wk.plen := prefixLength s.wk.work.length
    wk.elen := trailerLength p s.wk.work
    wk.work := s.wk.work.take (prefixLength s.wk.work.length)
    phase := Phase.lCbcd }

theorem exec_lSplit (s : State) : exec .lSplit s = .next (s.splitTrailer params) := rfl

/-- Settles O43: ELEN is the exact value because the accumulator of R10 has room for every trailer. -/
theorem legacySplitReadsTheTrailer : Obligations.LegacySplitReadsTheTrailer := by
  intro s
  have helen : (s.splitTrailer params).wk.elen = beNat (s.wk.work.drop (prefixLength s.wk.work.length)) :=
    trailerLength_eq_beNat params_elenBits.ge s.wk.work
  refine ⟨_, exec_lSplit s, SameBytes.refl s, rfl, rfl, rfl, helen, ?_⟩
  rw [helen]
  exact beNat_trailer_lt s.wk.work

end Sys2Proof.Machine
end

section
/-!
SUPPORT. Every command ends (R19, R347): the phases a running command can still take, as a number that each phase of the engine
brings down until the command has ended, and the statement O59.
-/

namespace Sys2Proof.Machine

/-! ### How many phases are left (R96, R230, R250) -/

/-- The phases from KDF_DONE to the end: KDF_DONE, PAD, CBCE, B64E, TAGPUT, FINISH in ENCRYPT, and KDF_DONE, CBCD, UNPAD, FINISH
in any other command (R157). -/
def phasesFromKdfDone (w : Word) : Nat := if opcField w = 0x02#8 then 6 else 4

/-- A bound on the phases that the engine still runs when it is to run `i`, this one included. It covers every state, D_CHECK
under the word of ENCRYPT as well, which DECODE never brings about. A whole command is one transition (R72). -/
def phasesLeft (i : Instr) (s : State) : Nat :=
  match i with
  | .idle => 0
  | .finish | .fail => 1
  | .config | .encrypt | .encryptV | .decrypt | .decryptV => 1
  | .cCommit | .tagput | .unpad | .lTrunc => 2
  | .cCheck | .b64e | .cbcd | .lCbcd => 3
  | .cbce | .lSplit => 4
  | .pad | .lB64d => 5
  | .lKeyfit => 6
  | .kdfDone => phasesFromKdfDone s.cmdReg
  | .kdfIter => phasesFromKdfDone s.cmdReg + (10000 - s.wk.kdfI.toNat)
  | .kdfInit => phasesFromKdfDone s.cmdReg + 10000
  | .rng | .ivsplit => phasesFromKdfDone s.cmdReg + 10001
  | .eCheck | .b64d => phasesFromKdfDone s.cmdReg + 10002
  | .dKeychk => phasesFromKdfDone s.cmdReg + 10003
  | .select => phasesFromKdfDone s.cmdReg + 10004
  | .tagsplit => phasesFromKdfDone s.cmdReg + 10005
  | .dCheck => phasesFromKdfDone s.cmdReg + 10006
  | .decode => 10012

theorem phasesFromKdfDone_bounds (w : Word) : 4 ≤ phasesFromKdfDone w ∧ phasesFromKdfDone w ≤ 6 := by
  unfold phasesFromKdfDone
  split <;> decide

/-- The bound of R347's statement: D_CHECK reaches it under the word of ENCRYPT, and DECODE has it. -/
theorem phasesLeft_le (i : Instr) (s : State) : phasesLeft i s ≤ 10012 := by
  obtain ⟨-, hmost⟩ := phasesFromKdfDone_bounds s.cmdReg
  cases i <;> simp only [phasesLeft] <;> omega

theorem phasesLeft_pos {i : Instr} (h : i ≠ .idle) (s : State) : 0 < phasesLeft i s := by
  obtain ⟨hleast, -⟩ := phasesFromKdfDone_bounds s.cmdReg
  cases i with
  | idle => exact absurd rfl h
  | _ => simp only [phasesLeft]; omega

/-! ### A command that runs, and one that has ended -/

/-- The engine, left to itself, is to run phase `i` of a command, and in KDF_ITER the count is not complete (R155). -/
structure Running (i : Instr) (s : State) : Prop where
  agenda : s.agenda = []
  phase : decodePhase s.phase = some i
  command : i ≠ .idle
  counting : i = .kdfIter → s.wk.kdfI.toNat < 10000

/-- The command is done, and the engine is idle and left to itself. -/
structure Ended (s : State) : Prop where
  agenda : s.agenda = []
  phase : s.phase = Phase.idle
  free : s.stBusy = false
  done : s.stDone = true

/-- `t` has ended the command that `s` was to go on with in phase `i`, or goes on with fewer phases left. -/
def Descends (i : Instr) (s t : State) : Prop := Ended t ∨ ∃ j, Running j t ∧ phasesLeft j t < phasesLeft i s

theorem descends_to {i j : Instr} {s t : State} (hagenda : t.agenda = []) (hphase : decodePhase t.phase = some j)
    (hcommand : j ≠ .idle) (hiter : j ≠ .kdfIter) (hless : phasesLeft j t < phasesLeft i s) : Descends i s t :=
  .inr ⟨j, ⟨hagenda, hphase, hcommand, fun h => absurd h hiter⟩, hless⟩

theorem descends_raise {i : Instr} {s u : State} (e : ErrorCause) (hagenda : u.agenda = []) (hleft : 1 < phasesLeft i s) :
    Descends i s (u.raise e) :=
  descends_to (j := .fail) hagenda rfl nofun nofun hleft

/-- The engine's phase is none of the five commands: those are decoded from words (R92, R96). -/
theorem Running.encode_eq {i : Instr} {s : State} (h : Running i s) : encode i = .phase s.phase := encode_of_decodePhase h.phase

/-! ### Each phase brings the number down -/

/-- DECODE (R93): the operation code tells which checks come, and with D_CHECK it is not ENCRYPT's. -/
theorem decode_descends {s : State} (hagenda : s.agenda = []) : ∃ t, exec .decode s = .next t ∧ Descends .decode s t := by
  refine ⟨_, rfl, ?_⟩
  obtain ⟨-, hmost⟩ := phasesFromKdfDone_bounds s.cmdReg
  split_ifs with hopc hbits hconfig hencrypt
  · exact descends_raise .badOpc hagenda (by simp [phasesLeft])
  · exact descends_raise .badBits hagenda (by simp [phasesLeft])
  · exact descends_to (j := .cCheck) hagenda rfl nofun nofun (by simp [phasesLeft])
  · exact descends_to (j := .eCheck) hagenda rfl nofun nofun (by simp only [phasesLeft, State.goTo_cmdReg]; omega)
  · exact descends_to (j := .dCheck) hagenda rfl nofun nofun (by simp [phasesLeft, phasesFromKdfDone, hencrypt])

/-- KDF_ITER (R155, R156): one more iteration is counted, and the ten thousandth goes on to KDF_DONE. -/
theorem kdfIter_descends {s : State} (hagenda : s.agenda = []) (hcount : s.wk.kdfI.toNat < 10000) :
    ∃ t, exec .kdfIter s = .next t ∧ Descends .kdfIter s t := by
  refine ⟨_, rfl, ?_⟩
  have hnext : (s.wk.kdfI + 1#14).toNat = s.wk.kdfI.toNat + 1 := by
    rw [BitVec.toNat_add]
    exact Nat.mod_eq_of_lt (by simp; omega)
  by_cases hmore : (s.wk.kdfI + 1#14).toNat < Config.kdfIterations
  · refine .inr ⟨.kdfIter, ⟨hagenda, congrArg decodePhase (if_pos hmore), nofun, fun _ => hmore⟩, ?_⟩
    simp only [phasesLeft]; omega
  · refine descends_to (j := .kdfDone) hagenda (congrArg decodePhase (if_neg hmore)) nofun nofun ?_
    simp only [phasesLeft]; omega

/-- KDF_DONE (R157): the rest of ENCRYPT, or the shorter rest of DECRYPT. -/
theorem kdfDone_descends {s : State} (hagenda : s.agenda = []) :
    ∃ t, exec .kdfDone s = .next t ∧ Descends .kdfDone s t := by
  refine ⟨_, rfl, ?_⟩
  by_cases hopc : opcField s.cmdReg = 0x02#8
  · exact descends_to (j := .pad) hagenda (congrArg decodePhase (if_pos hopc)) nofun nofun
      (by simp [phasesLeft, phasesFromKdfDone, hopc])
  · exact descends_to (j := .cbcd) hagenda (congrArg decodePhase (if_neg hopc)) nofun nofun
      (by simp [phasesLeft, phasesFromKdfDone, hopc])

/-- Every phase of a running command goes on, and to an end or to fewer phases left (R347). -/
theorem Running.descends {i : Instr} {s : State} (h : Running i s) : ∃ t, exec i s = .next t ∧ Descends i s t := by
  have hagenda := h.agenda
  cases i with
  | config | encrypt | encryptV | decrypt | decryptV => exact absurd h.encode_eq nofun
  | idle => exact absurd rfl h.command
  | finish | fail => exact ⟨_, rfl, .inl ⟨hagenda, rfl, rfl, rfl⟩⟩
  | decode => exact decode_descends hagenda
  | kdfIter => exact kdfIter_descends hagenda (h.counting rfl)
  | kdfDone => exact kdfDone_descends hagenda
  | kdfInit =>
    exact ⟨_, rfl, .inr ⟨.kdfIter, ⟨hagenda, rfl, nofun, fun _ => by simp⟩, by simp [phasesLeft]⟩⟩
  | cCommit | rng | pad | cbce | b64e | tagput | lSplit =>
    exact ⟨_, rfl, descends_to hagenda rfl nofun nofun (by simp [phasesLeft])⟩
  | select =>
    refine ⟨_, rfl, ?_⟩
    dsimp only
    split_ifs
    · exact descends_to hagenda rfl nofun nofun (by simp [phasesLeft])
    · exact descends_to hagenda rfl nofun nofun (by simp [phasesLeft])
    · exact descends_raise .unsupportedVersion hagenda (by simp [phasesLeft])
  | cCheck | eCheck | dCheck | tagsplit | dKeychk | b64d | ivsplit | cbcd | unpad | lKeyfit | lB64d | lCbcd | lTrunc =>
    refine ⟨_, rfl, ?_⟩
    split
    · exact descends_raise _ hagenda (by simp [phasesLeft])
    · exact descends_to hagenda rfl nofun nofun (by simp [phasesLeft])

/-! ### Runs of the engine -/

/-- With nothing on the agenda a step runs the micro-operation of PHASE (R24; log 2). -/
theorem step_of_engine {i : Instr} {s : State} (hagenda : s.agenda = []) (hphase : decodePhase s.phase = some i) :
    step s = exec i s := by
  simp [step, agendaStep, engineStep, hagenda, hphase]

/-- An idle engine left to itself stays as it is (R24, R371). -/
theorem run_of_idle {s : State} (hagenda : s.agenda = []) (hphase : s.phase = Phase.idle) (n : Nat) :
    core.run n s = .next s := by
  have hstep : step s = .next s := step_of_engine hagenda (i := .idle) (by rw [hphase]; rfl)
  induction n with
  | zero => rfl
  | succ n ih => rw [run_succ core n s s hstep, ih]

/-- A running command has ended after as many steps as it has phases left, and after any more. -/
theorem Running.run_ended {n : Nat} {i : Instr} {s : State} (h : Running i s) (hleft : phasesLeft i s ≤ n) :
    ∃ t, core.run n s = .next t ∧ Ended t := by
  induction n generalizing i s with
  | zero => exact absurd hleft (phasesLeft_pos h.command s).not_ge
  | succ n ih =>
    obtain ⟨u, hexec, hdescends⟩ := h.descends
    rw [run_succ core n s u ((step_of_engine h.agenda h.phase).trans hexec)]
    obtain hended | ⟨j, hrunning, hless⟩ := hdescends
    · exact ⟨u, run_of_idle hended.agenda hended.phase n, hended⟩
    · exact ih hrunning (by omega)

/-! ### Coherent machines -/

/-- The codes 0 to 27 are assigned (R96). -/
theorem exists_decodePhase {c : BitVec 5} (h : c.toNat < 28) : ∃ i, decodePhase c = some i := by
  have all_codes : ∀ c : BitVec 5, c.toNat < 28 → (decodePhase c).isSome := by decide
  exact Option.isSome_iff_exists.mp (all_codes c h)

/-- A coherent, guarded, busy machine left to its engine runs some phase of a command (R24, R156). -/
theorem exists_running {s : State} (hcoherent : SequencerCoherent s) (hguarded : KeyGuarded s) (hagenda : s.agenda = [])
    (hbusy : s.stBusy = true) : ∃ i, Running i s := by
  obtain ⟨i, hphase⟩ := exists_decodePhase hcoherent.assigned
  have hcode : encode i = .phase s.phase := encode_of_decodePhase hphase
  refine ⟨i, hagenda, hphase, ?_, ?_⟩ <;> rintro rfl <;> injection hcode with hcode
  · exact hcoherent.busy.mp hbusy hcode.symm
  · obtain ⟨-, hcount⟩ := hguarded.counting hcode.symm
    exact hcount

/-- Settles O59: a running command brings `phasesLeft` down with every phase, and no command has more than 10012 left. -/
theorem everyCommandEnds : Obligations.EveryCommandEnds := by
  intro s hcoherent hguarded hagenda
  by_cases hbusy : s.stBusy = true
  · obtain ⟨i, hrunning⟩ := exists_running hcoherent hguarded hagenda hbusy
    obtain ⟨t, hrun, hended⟩ := hrunning.run_ended (phasesLeft_le i s)
    exact ⟨t, hrun, hended.phase, hended.free, fun _ => hended.done⟩
  · have hidle : s.phase = Phase.idle := not_not.mp (hbusy ∘ hcoherent.busy.mpr)
    exact ⟨s, run_of_idle hagenda hidle 10012, hidle, by simpa using hbusy, fun h => absurd h hbusy⟩

end Sys2Proof.Machine
end

section
/-!
SUPPORT. The decoder accepts the codes that pass the checks of `WellFormed.lean` and no other (R92, R93, R96), and the statements O1
and O2 about codes.
-/

namespace Sys2Proof.Machine

/-- The code of each instruction fits it, whichever instruction it is: the family `CodeFits` as one statement (R92, R96). -/
theorem codeFits (i : Instr) : Laws.CodeFits.Statement i := by
  cases i with
  | config => exact Laws.CodeFits.config
  | encrypt => exact Laws.CodeFits.encrypt
  | encryptV => exact Laws.CodeFits.encryptV
  | decrypt => exact Laws.CodeFits.decrypt
  | decryptV => exact Laws.CodeFits.decryptV
  | idle => exact Laws.CodeFits.idle
  | decode => exact Laws.CodeFits.decode
  | cCheck => exact Laws.CodeFits.cCheck
  | cCommit => exact Laws.CodeFits.cCommit
  | eCheck => exact Laws.CodeFits.eCheck
  | rng => exact Laws.CodeFits.rng
  | kdfInit => exact Laws.CodeFits.kdfInit
  | kdfIter => exact Laws.CodeFits.kdfIter
  | kdfDone => exact Laws.CodeFits.kdfDone
  | pad => exact Laws.CodeFits.pad
  | cbce => exact Laws.CodeFits.cbce
  | b64e => exact Laws.CodeFits.b64e
  | tagput => exact Laws.CodeFits.tagput
  | dCheck => exact Laws.CodeFits.dCheck
  | tagsplit => exact Laws.CodeFits.tagsplit
  | select => exact Laws.CodeFits.select
  | dKeychk => exact Laws.CodeFits.dKeychk
  | b64d => exact Laws.CodeFits.b64d
  | ivsplit => exact Laws.CodeFits.ivsplit
  | cbcd => exact Laws.CodeFits.cbcd
  | unpad => exact Laws.CodeFits.unpad
  | lKeyfit => exact Laws.CodeFits.lKeyfit
  | lB64d => exact Laws.CodeFits.lB64d
  | lSplit => exact Laws.CodeFits.lSplit
  | lCbcd => exact Laws.CodeFits.lCbcd
  | lTrunc => exact Laws.CodeFits.lTrunc
  | finish => exact Laws.CodeFits.finish
  | fail => exact Laws.CodeFits.fail

/-- Whatever a code decodes to, it is the code of that instruction. -/
theorem encode_of_decode {c : Code} {i : Instr} (h : decode c = some i) : encode i = c := by
  cases c with
  | command w =>
    cases hw : decodeCommand w with
    | ok j =>
      simp only [decode, hw, Except.toOption, Option.some.injEq] at h
      exact h ▸ encode_of_decodeCommand hw
    | error r => simp [decode, hw, Except.toOption] at h
  | phase c => exact encode_of_decodePhase h

/-- A word that passes the checks of R93 decodes. -/
theorem exists_decodeCommand {w : Word} (h : (Code.command w).WellFormed) : ∃ i, decodeCommand w = .ok i := by
  obtain ⟨hopc, hreserved, hover⟩ := h
  unfold WellFormed.reservedBits at hreserved
  have hknown := mt (badOpc_iff w).mp (not_not.mpr hopc)
  have hbits := mt (badBits_iff w).mp (not_or.mpr ⟨by omega, hover⟩)
  unfold decodeCommand
  rw [if_neg hknown, if_neg hbits]
  split_ifs <;> exact ⟨_, rfl⟩

theorem exists_decode {c : Code} (h : c.WellFormed) : ∃ i, decode c = some i := by
  cases c with
  | command w =>
    obtain ⟨i, hi⟩ := exists_decodeCommand h
    exact ⟨i, by rw [decode, hi]; rfl⟩
  | phase c => exact exists_decodePhase h

/-- Settles O1: what decodes is some instruction's code, and every instruction's code is well formed and decodes back to it. -/
theorem decodeIsInverseOfEncode : Obligations.DecodeIsInverseOfEncode := by
  intro c
  refine ⟨fun i => ⟨encode_of_decode, fun h => h ▸ (codeFits i).2⟩, fun h => ?_, fun h => ?_⟩
  · obtain ⟨i, hi⟩ := Option.isSome_iff_exists.mp h
    exact encode_of_decode hi ▸ (codeFits i).1
  · exact Option.isSome_iff_exists.mpr (exists_decode h)

/-- Settles O2: each written-out code is evaluated. -/
theorem writtenOutCodesDecode : Obligations.WrittenOutCodesDecode := by
  unfold Obligations.WrittenOutCodesDecode
  decide

end Sys2Proof.Machine
end

section
/-!
SUPPORT. The round trips of the codecs as the statements O45, O46, O47 and O49 put them, and what the default parameters are, the
statement O48.
-/

namespace Sys2Proof.Machine

/-- ZPAD appends zero bytes up to a whole number of blocks, whatever its switch says (R176). -/
theorem zpad_spec (p : Config.Params) (x : ByteString) :
    ∃ n, zpad p x = x ++ zeros n ∧ (x.length + n) % 16 = 0 := by
  unfold zpad
  split_ifs with hpartial hswitch
  · exact ⟨_, rfl, by omega⟩
  · exact ⟨16, rfl, by omega⟩
  · exact ⟨0, by simp [zeros], by omega⟩

/-- Settles O45: SUNPAD strips the count that SPAD appended, and ZTRUNC cuts the zeros that ZPAD appended. -/
theorem paddingRoundTrips : Obligations.PaddingRoundTrips := by
  intro p x
  obtain ⟨n, hzpad, haligned⟩ := zpad_spec p x
  refine ⟨sunpad_spad x, ?_, ?_⟩ <;> rw [hzpad]
  · rw [ztrunc_of_le (by simp), List.take_left]
  · rwa [List.length_append, zeros_length]

/-- Settles O46. -/
theorem base64RoundTrip : Obligations.Base64RoundTrip := b64Decode_b64Encode

/-- Settles O47. -/
theorem cbcRoundTrip : Obligations.CbcRoundTrip := fun _ _ iv _ hbc hk hx => cbcDec_cbcEnc hbc hk iv hx

/-- Settles O49: the inverse laws of the block cipher are all that the round trip takes from the constraints of R10. -/
theorem decryptUndoesEncrypt : Obligations.DecryptUndoesEncrypt :=
  fun _ _ tag x iv hp hkey => decryptText_encText hp.bc hkey tag x iv

/-- The defaults' key derivation is the one that the phases compute (R151, R153). -/
theorem params_kdfIsPbkdf2 : KdfIsPbkdf2 params := fun _ _ => rfl

/-- The machine handed to the host gives an instruction the meaning that the machine of all parameters gives it at the defaults. -/
theorem exec_eq_execWith (i : Instr) (s : State) : exec i s = execWith params s.nextDraw i s := by cases i <;> rfl

theorem engineStep_congr {run run' : Instr → State → Answer} {s : State} (h : ∀ i, run i s = run' i s) :
    engineStep run s = engineStep run' s := by
  unfold engineStep
  split
  · exact h _
  · rfl

theorem commandStep_congr {run run' : Instr → State → Answer} {s : State} (h : ∀ i, run i s = run' i s) (w : Word) :
    commandStep run w s = commandStep run' w s := by
  unfold commandStep
  split
  · exact h _
  · rfl

/-- A step depends on the meanings of the instructions in its own state alone. -/
theorem agendaStep_congr {p : Config.Params} {run run' : Instr → State → Answer} {s : State}
    (h : ∀ i, run i s = run' i s) : agendaStep p run s = agendaStep p run' s := by
  unfold agendaStep
  split
  · exact engineStep_congr h
  · next e _ _ =>
    congr 1
    cases e with
    | engine a => exact engineStep_congr h
    | command w a => exact commandStep_congr h w
    | readReg | writeReg | readBuf | writeBuf | readResult | reset => rfl

theorem step_eq_stepWith (s : State) : step s = stepWith params s.nextDraw s :=
  agendaStep_congr fun i => exec_eq_execWith i s

/-- Settles O48: the numbers are the table's, the constraints are `params_ok`, and a step at the defaults runs what `exec` runs. -/
theorem defaultParametersAreAdmissible : Obligations.DefaultParametersAreAdmissible :=
  ⟨params_ok, params_kdfIsPbkdf2, rfl, rfl, rfl, rfl, rfl, rfl, rfl, rfl, rfl, rfl, rfl,
    exec_eq_execWith, step_eq_stepWith, rfl⟩

end Sys2Proof.Machine
end

section
/-!
SUPPORT. How long the answers of the codecs can be (R172, R177, R194, R213): none is longer than what it was made from, so no plaintext
is longer than its string (R250).
-/

namespace Sys2Proof.Machine

theorem sunpad_length_le {b v : ByteString} (h : sunpad b = .ok v) : v.length ≤ b.length := by
  obtain ⟨-, h'⟩ | ⟨_, -, -, h'⟩ | ⟨_, -, -, h'⟩ := sunpad_cases b <;> rw [h'] at h <;> cases h
  exact List.length_take_le' ..

theorem ztrunc_length_le {b v : ByteString} {len : Nat} (h : ztrunc b len = .ok v) : v.length ≤ b.length := by
  obtain ⟨-, h'⟩ | ⟨-, h'⟩ := ztrunc_cases b len <;> rw [h'] at h <;> cases h
  exact List.length_take_le' ..

theorem cbcDec_length {bc : Config.BlockCipher} {k c v : ByteString} {iv : Bytes 16} (h : cbcDec bc k iv c = .ok v) :
    v.length = c.length := by
  obtain ⟨-, h'⟩ | ⟨-, x, h', hx⟩ := cbcDec_cases bc k iv c <;> rw [h'] at h <;> cases h
  exact hx

theorem b64Text_length_le (p : Config.Params) (s : ByteString) : (b64Text p s).length ≤ s.length := by
  unfold b64Text
  split
  · exact List.length_filter_le ..
  · exact le_rfl

theorem b64Decode_length_le {p : Config.Params} {s v : ByteString} (h : b64Decode p s = .ok v) : v.length ≤ s.length := by
  obtain ⟨x, h', hgroups, -⟩ | h' := b64Decode_cases p s <;> rw [h'] at h <;> cases h
  have hthree := b64Groups_length _ _ _ hgroups
  have htext := b64Text_length_le p s
  omega

theorem currentDecrypt_length_le {p : Config.Params} {mkey payload v : ByteString} (h : currentDecrypt p mkey payload = .ok v) :
    v.length ≤ payload.length := by
  unfold currentDecrypt at h
  split at h
  · cases h
  split at h
  · cases h
  next buf hbuf =>
    split at h
    · cases h
    split at h
    · cases h
    next padded hpadded =>
      calc v.length ≤ padded.length := sunpad_length_le h
        _ = buf.length - 16 := by rw [cbcDec_length hpadded, List.length_drop]
        _ ≤ buf.length := Nat.sub_le ..
        _ ≤ payload.length := b64Decode_length_le hbuf

theorem legacyDecrypt_length_le {p : Config.Params} {lk s v : ByteString} (h : legacyDecrypt p lk s = .ok v) :
    v.length ≤ s.length := by
  unfold legacyDecrypt at h
  split at h
  · cases h
  split at h
  · cases h
  next buf hbuf =>
    split at h
    · cases h
    next dec hdec =>
      calc v.length ≤ dec.length := ztrunc_length_le h
        _ = (buf.take (prefixLength buf.length)).length := cbcDec_length hdec
        _ ≤ buf.length := List.length_take_le' ..
        _ ≤ s.length := b64Decode_length_le hbuf

/-- A plaintext is never longer than the string it was decrypted from. -/
theorem decryptText_length_le {p : Config.Params} {cfg : CommittedConfig} {s v : ByteString} {expected : Bytes 6}
    (h : (decryptText p cfg s expected).2 = .ok v) : v.length ≤ s.length := by
  unfold decryptText at h
  split at h
  · cases h
  split at h
  · exact (currentDecrypt_length_le h).trans (by simp)
  split at h
  · exact legacyDecrypt_length_le h
  · cases h

end Sys2Proof.Machine
end

section
/-!
SUPPORT. What an engine's turn and a whole command can do, said once: the phases that go on with a command, the two that end it, and the
ends of a command as one transition (R24, R72, R344, R345). A property that each of them and each host access keeps is kept by every
step.
-/

namespace Sys2Proof.Machine

/-! ### One phase of the engine -/

/-- `t` is `s` with the sequencer moved on to another phase of the running command: a phase writes the working registers, PATH, the
Config and the count of draws, and nothing else. -/
structure GoesOn (s t : State) : Prop where
  frame : t = { s with stPath := t.stPath, phase := t.phase, cfg := t.cfg, wk := t.wk, draws := t.draws }
  assigned : t.phase.toNat < 28
  running : t.phase ≠ 0#5
  failing : t.phase = 27#5 → ∃ e : ErrorCause, t.wk.raisedCode = e.code

theorem GoesOn.raise (s : State) (wk : WorkRegs) (e : ErrorCause) : GoesOn s (State.raise { s with wk := wk } e) :=
  ⟨rfl, show Phase.fail.toNat < 28 by decide, show Phase.fail ≠ 0#5 by decide, fun _ => ⟨e, rfl⟩⟩

/-- An assigned code that is neither IDLE's nor FAIL's: a phase that is reached without an error. -/
abbrev isWorkPhase (c : BitVec 5) : Prop := c.toNat < 28 ∧ c ≠ 0#5 ∧ c ≠ 27#5

theorem GoesOn.of_workPhase {s t : State} (hphase : isWorkPhase t.phase)
    (hframe : t = { s with stPath := t.stPath, phase := t.phase, cfg := t.cfg, wk := t.wk, draws := t.draws }) :
    GoesOn s t := by
  obtain ⟨hassigned, hrunning, hfail⟩ := hphase
  exact ⟨hframe, hassigned, hrunning, fun h => absurd h hfail⟩

/-- What a micro-operation can do. -/
inductive PhaseCase (s : State) : Instr → State → Prop where
  | waits : PhaseCase s .idle s
  | goesOn (i : Instr) (t : State) : i ≠ .idle → GoesOn s t → PhaseCase s i t
  | finishes : PhaseCase s .finish (s.endOk params (if opcField s.cmdReg = 0x01#8 then [] else s.wk.work))
  | fails : PhaseCase s .fail (s.endFailed s.wk.raisedCode)

theorem phaseCase_of_exec {i : Instr} {s t : State} {c : BitVec 5} (hcode : encode i = .phase c) (h : exec i s = .next t) :
    PhaseCase s i t := by
  cases i with
  | config | encrypt | encryptV | decrypt | decryptV => cases hcode
  | idle => injection h with h; exact h ▸ .waits
  | finish => injection h with h; exact h ▸ .finishes
  | fail => injection h with h; exact h ▸ .fails
  | cCommit | rng | kdfInit | pad | cbce | b64e | tagput | lSplit =>
    injection h with h
    subst h
    exact .goesOn _ _ nofun (GoesOn.of_workPhase (by dsimp only; decide) rfl)
  | kdfIter | kdfDone =>
    injection h with h
    subst h
    exact .goesOn _ _ nofun (GoesOn.of_workPhase (by dsimp only; split <;> decide) rfl)
  | decode =>
    injection h with h
    split_ifs at h <;> subst h
    · exact .goesOn _ _ nofun (GoesOn.raise s s.wk _)
    · exact .goesOn _ _ nofun (GoesOn.raise s s.wk _)
    all_goals exact .goesOn _ _ nofun (GoesOn.of_workPhase (by dsimp only [State.goTo]; decide) rfl)
  | select =>
    injection h with h
    dsimp only at h
    split_ifs at h <;> subst h
    · exact .goesOn _ _ nofun (GoesOn.of_workPhase (by dsimp only [State.goTo]; decide) rfl)
    · exact .goesOn _ _ nofun (GoesOn.of_workPhase (by dsimp only [State.goTo]; decide) rfl)
    · exact .goesOn _ _ nofun (GoesOn.raise s _ _)
  | cCheck | eCheck | dCheck | tagsplit | dKeychk | b64d | ivsplit | cbcd | unpad | lKeyfit | lB64d | lCbcd | lTrunc =>
    injection h with h
    split at h <;> subst h
    · exact .goesOn _ _ nofun (GoesOn.raise s _ _)
    · exact .goesOn _ _ nofun (GoesOn.of_workPhase (by dsimp only [State.goTo]; decide) rfl)

/-- An engine's turn runs the micro-operation of PHASE. -/
theorem engineStep_cases {s t : State} (h : engineStep exec s = .next t) :
    ∃ i, encode i = .phase s.phase ∧ exec i s = .next t ∧ PhaseCase s i t := by
  obtain ⟨i, hi, ht⟩ := (engineStep_next_iff ..).mp h
  have hcode := encode_of_decodePhase hi
  exact ⟨i, hcode, ht, phaseCase_of_exec hcode ht⟩

/-! ### One whole command -/

/-- What a whole command with word `w` can do (R72): nothing while another runs; else it is accepted and ends, by an error or with a
result that fits OUTBUF. -/
inductive CommandCase (s : State) (w : Word) : State → Prop where
  | ignored : s.stBusy = true → CommandCase s w s
  | failed (path : Path) (e : ErrorCause) : s.stBusy = false →
    CommandCase s w (State.endFailed { s.accept w with stPath := path } e.code)
  | ended (path : Path) (cfg : CommittedConfig) (draws : Nat) (v : ByteString) : s.stBusy = false →
    v.length ≤ params.outMax →
    CommandCase s w (State.endOk params { s.accept w with stPath := path, cfg := cfg, draws := draws } v)

theorem configCommand_commandCase {s : State} {w : Word} (hidle : s.stBusy = false) :
    CommandCase s w (configCommand params (s.accept w)) := by
  unfold configCommand
  split
  · exact .failed .noBranch _ hidle
  · exact .ended .noBranch _ s.draws [] hidle (Nat.zero_le _)

/-- ENCRYPT's result fits OUTBUF because its input fits INBUF (R10, R231). -/
theorem encryptCommand_commandCase {s : State} {w : Word} (iv : Bytes 16) (v : Bool) (hidle : s.stBusy = false) :
    CommandCase s w (encryptCommand params iv v (s.accept w)) := by
  unfold encryptCommand
  split
  · exact .failed .noBranch _ hidle
  · next hchecks =>
    obtain ⟨hlen, -, -⟩ := (eCheckError_eq_none_iff ..).mp hchecks
    exact .ended .noBranch s.cfg (s.draws + 1) _ hidle (encText_fits params_ok ((State.input_length _).trans_le hlen) ..)

/-- DECRYPT's result is no longer than its input, which fits INBUF, and OUTBUF is no smaller (R10, R251). -/
theorem decryptCommand_commandCase {s : State} {w : Word} (v : Bool) (hidle : s.stBusy = false) :
    CommandCase s w (decryptCommand params v (s.accept w)) := by
  unfold decryptCommand
  split
  · exact .failed .noBranch _ hidle
  · next hchecks =>
    obtain ⟨hlen, -⟩ := (dCheckError_eq_none_iff ..).mp hchecks
    unfold State.endWith
    split
    · exact .failed _ _ hidle
    · next x hx =>
      have hinput : x.length ≤ params.inMax := (decryptText_length_le hx).trans ((State.input_length _).trans_le hlen)
      exact .ended _ s.cfg s.draws x hidle (hinput.trans params_ok.outMax.2)

/-- A command is ignored while another runs (R72). -/
theorem commandCase_unless_busy {s u : State} {w : Word} (h : s.stBusy = false → CommandCase s w u) :
    CommandCase s w (if s.stBusy then s else u) := by
  split_ifs with hbusy
  · exact .ignored hbusy
  · exact h (by simpa using hbusy)

theorem illegalCommand_commandCase (s : State) (w : Word) (r : CommandReject) : CommandCase s w (illegalCommand s w r) :=
  commandCase_unless_busy fun hidle => .failed .noBranch _ hidle

theorem commandCase_of_exec {i : Instr} {w : Word} {s t : State} (hcode : encode i = .command w) (h : exec i s = .next t) :
    CommandCase s w t := by
  cases i with
  | config =>
    cases hcode
    cases h
    exact commandCase_unless_busy configCommand_commandCase
  | encrypt | encryptV =>
    cases hcode
    cases h
    exact commandCase_unless_busy (encryptCommand_commandCase s.nextDraw _)
  | decrypt | decryptV =>
    cases hcode
    cases h
    exact commandCase_unless_busy (decryptCommand_commandCase _)
  | _ => cases hcode

theorem commandStep_cases {w : Word} {s t : State} (h : commandStep exec w s = .next t) : CommandCase s w t := by
  obtain ⟨i, hi, ht⟩ | ⟨r, -, rfl⟩ := (commandStep_next_iff ..).mp h
  · exact commandCase_of_exec (encode_of_decodeCommand hi) ht
  · exact illegalCommand_commandCase s w r

/-! ### Every step -/

/-- The induction over what a step can be, packaged once: a property `P` holds after every step from a state with `Q` when it holds
after every phase, whole command, host write and reset from such a state, and depends neither on the agenda nor on what the host
holds. -/
theorem step_leads_to {Q P : State → Prop} (hQP : ∀ s, Q s → P s)
    (hmodel : ∀ s agenda data, P s → P { s with agenda := agenda, hostData := data })
    (hphase : ∀ s i t, Q s → encode i = .phase s.phase → exec i s = .next t → PhaseCase s i t → P t)
    (hcommand : ∀ s w t, Q s → CommandCase s w t → P t)
    (hreg : ∀ s n v, Q s → P (hostWriteReg params s n v))
    (hbuf : ∀ s space off b, Q s → P (hostWriteBuf params s space off b))
    (hreset : ∀ s, Q s → P (s.afterReset params)) {s t : State} (hs : Q s) (h : step s = .next t) : P t := by
  have hengine : ∀ u, engineStep exec s = .next u → P u := fun u hu => by
    obtain ⟨i, hcode, hexec, hcase⟩ := engineStep_cases hu
    exact hphase s i u hs hcode hexec hcase
  obtain ⟨-, hrun⟩ | ⟨e, rest, u, -, hevent, rfl⟩ := step_cases s t h
  · exact hengine t hrun
  · refine hmodel u _ u.hostData ?_
    cases eventStep_cases _ _ _ _ _ hevent with
    | engine a _ hrun => exact hengine u hrun
    | command w a _ hrun => exact hcommand s w u hs (commandStep_cases hrun)
    | readReg | readBuf | readResult => exact hmodel s _ _ (hQP s hs)
    | writeReg n v => exact hreg s n v hs
    | writeBuf space off b => exact hbuf s space off b hs
    | reset => exact hreset s hs

end Sys2Proof.Machine
end

section
/-!
SUPPORT. The invariants of the sequencer and of the buffer spaces (R24, R28, R31, R60), and the statements O52, O54 and O55 about every
step.
-/

namespace Sys2Proof.Machine

/-! ### Who writes the operands (R61, R344) -/

/-- No engine's turn writes an operand, a staging slot or a space other than OUTBUF, and no whole command does. -/
structure KeepsOperands (s t : State) : Prop where
  inLen : t.inLen = s.inLen
  sCurTagLen : t.sCurTagLen = s.sCurTagLen
  sMkeyLen : t.sMkeyLen = s.sMkeyLen
  sNleg : t.sNleg = s.sNleg
  inbuf : t.inbuf = s.inbuf
  vtag : t.vtag = s.vtag
  sCurTag : t.sCurTag = s.sCurTag
  sMkey : t.sMkey = s.sMkey
  staged : t.staged = s.staged

theorem PhaseCase.keepsOperands {s t : State} {i : Instr} (h : PhaseCase s i t) : KeepsOperands s t := by
  cases h with
  | goesOn _ _ _ hgoes => rw [hgoes.frame]; exact ⟨rfl, rfl, rfl, rfl, rfl, rfl, rfl, rfl, rfl⟩
  | waits | finishes | fails => exact ⟨rfl, rfl, rfl, rfl, rfl, rfl, rfl, rfl, rfl⟩

theorem CommandCase.keepsOperands {s t : State} {w : Word} (h : CommandCase s w t) : KeepsOperands s t := by
  cases h <;> exact ⟨rfl, rfl, rfl, rfl, rfl, rfl, rfl, rfl, rfl⟩

/-- Settles O52: the operands are outside what a phase and a whole command write, and no other event is one of theirs. -/
theorem commandsKeepTheirOperands : Obligations.CommandsKeepTheirOperands := by
  intro s t hstep hturn
  have hkept : KeepsOperands s t := by
    obtain ⟨-, hrun⟩ | ⟨e, rest, u, hagenda, hevent, rfl⟩ := step_cases s t hstep
    · obtain ⟨i, -, -, hcase⟩ := engineStep_cases hrun
      exact hcase.keepsOperands
    · have hkept : KeepsOperands s u := by
        cases eventStep_cases _ _ _ _ _ hevent with
        | engine a _ hrun =>
          obtain ⟨i, -, -, hcase⟩ := engineStep_cases hrun
          exact hcase.keepsOperands
        | command w a _ hrun => exact (commandStep_cases hrun).keepsOperands
        | readReg | readBuf | readResult | writeReg | writeBuf | reset => simp [EngineTurn, hagenda] at hturn
      exact ⟨hkept.inLen, hkept.sCurTagLen, hkept.sMkeyLen, hkept.sNleg, hkept.inbuf, hkept.vtag, hkept.sCurTag,
        hkept.sMkey, hkept.staged⟩
  exact ⟨hkept.inLen, hkept.sCurTagLen, hkept.sMkeyLen, hkept.sNleg, hkept.staged,
    sameBytesButOut_of_eq s t hkept.inbuf hkept.vtag hkept.sCurTag hkept.sMkey hkept.staged⟩

/-! ### The buffer spaces -/

/-- With the operands kept, OUTBUF alone can leave its canonical form. -/
theorem SpacesCanonical.of_keepsOperands {s t : State} (hs : SpacesCanonical s) (h : KeepsOperands s t)
    (hout : t.outbuf.wf ∧ t.outbuf.within params.outMax) : SpacesCanonical t where
  inbuf := h.inbuf ▸ hs.inbuf
  outbuf := hout
  vtag := h.vtag ▸ hs.vtag
  sCurTag := h.sCurTag ▸ hs.sCurTag
  sMkey := h.sMkey ▸ hs.sMkey
  slots := h.staged ▸ hs.slots
  staged := h.staged ▸ hs.staged

/-- Both ends of a command write OUTBUF whole, inside its size (R344, R345). -/
theorem fill_canonical (n : Nat) (v : ByteString) : (Memory.fill n v).wf ∧ (Memory.fill n v).within n :=
  ⟨Memory.fill_wf n v, Memory.fill_within n v⟩

theorem fill_zero_canonical (n : Nat) : (Memory.fill 0 []).wf ∧ (Memory.fill 0 []).within n := by
  rw [Memory.fill_nil]
  exact ⟨Memory.wf_nil, Memory.within_nil n⟩

theorem PhaseCase.spacesCanonical {s t : State} {i : Instr} (h : PhaseCase s i t) (hs : SpacesCanonical s) :
    SpacesCanonical t := by
  refine hs.of_keepsOperands h.keepsOperands ?_
  cases h with
  | waits => exact hs.outbuf
  | goesOn _ _ _ hgoes => rw [hgoes.frame]; exact hs.outbuf
  | finishes => exact fill_canonical ..
  | fails => exact fill_zero_canonical _

theorem CommandCase.spacesCanonical {s t : State} {w : Word} (h : CommandCase s w t) (hs : SpacesCanonical s) :
    SpacesCanonical t := by
  refine hs.of_keepsOperands h.keepsOperands ?_
  cases h with
  | ignored => exact hs.outbuf
  | failed => exact fill_zero_canonical _
  | ended => exact fill_canonical ..

/-- A byte written inside a space leaves it canonical and inside its size. -/
theorem write_canonical {m : Memory} {n off : Nat} (h : m.wf ∧ m.within n) (hoff : off < n) (b : Byte) :
    (m.write off b).wf ∧ (m.write off b).within n := by
  obtain ⟨hwf, hwithin⟩ := h
  exact ⟨Memory.write_wf m off b hwf, Memory.write_within m off b n hwithin hoff⟩

/-- Changing a slot in a way that keeps each slot canonical keeps the spaces so. -/
theorem SpacesCanonical.setSlot {s : State} (hs : SpacesCanonical s) (i : Nat) {f : StagedEntry → StagedEntry}
    (hf : ∀ e : StagedEntry, e.Canonical → (f e).Canonical) : SpacesCanonical (s.setSlot i f) where
  inbuf := hs.inbuf
  outbuf := hs.outbuf
  vtag := hs.vtag
  sCurTag := hs.sCurTag
  sMkey := hs.sMkey
  slots := (s.staged_setSlot_length i f).trans hs.slots
  staged := s.forall_staged_setSlot i f _ hs.staged hf

theorem hostWriteReg_spacesCanonical {s : State} (hs : SpacesCanonical s) (n : Nat) (v : Word) :
    SpacesCanonical (hostWriteReg params s n v) := by
  obtain h | ⟨-, -, h⟩ | ⟨-, _, _, _, _, h⟩ | ⟨-, i, _, _, h⟩ := hostWriteReg_cases params s n v <;> rw [h]
  · exact hs
  · exact ⟨hs.inbuf, hs.outbuf, hs.vtag, hs.sCurTag, hs.sMkey, hs.slots, hs.staged⟩
  · exact ⟨hs.inbuf, hs.outbuf, hs.vtag, hs.sCurTag, hs.sMkey, hs.slots, hs.staged⟩
  · exact hs.setSlot i fun _ he => he

theorem hostWriteBuf_spacesCanonical {s : State} (hs : SpacesCanonical s) (space off : Nat) (b : Byte) :
    SpacesCanonical (hostWriteBuf params s space off b) := by
  obtain h | ⟨-, ⟨hoff, h⟩ | ⟨hoff, h⟩ | ⟨hoff, h⟩ | ⟨hoff, h⟩ | ⟨hoff, i, h⟩ | ⟨hoff, i, h⟩⟩ :=
    hostWriteBuf_cases params s space off b <;> rw [h]
  · exact hs
  · exact { hs with inbuf := write_canonical hs.inbuf hoff b }
  · exact { hs with vtag := write_canonical hs.vtag hoff b }
  · exact { hs with sCurTag := write_canonical hs.sCurTag hoff b }
  · exact { hs with sMkey := write_canonical hs.sMkey hoff b }
  · refine hs.setSlot i fun e ⟨htag, hin, hkey⟩ => ?_
    obtain ⟨htag', hin'⟩ := write_canonical ⟨htag, hin⟩ hoff b
    exact ⟨htag', hin', hkey⟩
  · refine hs.setSlot i fun e ⟨htag, hin, hkey, hin'⟩ => ?_
    exact ⟨htag, hin, write_canonical ⟨hkey, hin'⟩ hoff b⟩

/-- Every space is empty after reset, and the staging area has its slots (R370). -/
theorem resetWith_spacesCanonical : SpacesCanonical (State.resetWith params.nlegMax) := by
  have hempty (n : Nat) : Memory.wf [] ∧ Memory.within [] n := ⟨Memory.wf_nil, Memory.within_nil n⟩
  refine ⟨hempty _, hempty _, hempty _, hempty _, hempty _, List.length_replicate, fun e he => ?_⟩
  rw [(List.mem_replicate.mp he).2]
  exact ⟨Memory.wf_nil, Memory.within_nil _, hempty _⟩

/-- Settles O54: each write keeps its space canonical and is addressed inside it. -/
theorem stepKeepsSpacesCanonical : Obligations.StepKeepsSpacesCanonical := fun _ _ hs hstep =>
  step_leads_to (fun _ h => h) (fun _ _ _ h => { h with }) (fun _ _ _ hs _ _ hcase => hcase.spacesCanonical hs)
    (fun _ _ _ hs hcase => hcase.spacesCanonical hs) (fun _ n v hs => hostWriteReg_spacesCanonical hs n v)
    (fun _ space off b hs => hostWriteBuf_spacesCanonical hs space off b)
    (fun _ _ => { resetWith_spacesCanonical with }) hs hstep

/-! ### The sequencer and the flags -/

/-- IDLE has code 0 and no other micro-operation has it (R96). -/
theorem phase_ne_zero {i : Instr} {c : BitVec 5} (hcode : encode i = .phase c) (hi : i ≠ .idle) : c ≠ 0#5 := by
  rintro rfl
  have hidle : some i = some .idle := (codeFits i).2.symm.trans (congrArg decode hcode)
  exact hi (Option.some.inj hidle)

/-- The error waits in FAIL (R344). -/
theorem SequencerCoherent.waiting {s : State} (hs : SequencerCoherent s) (hcode : encode .fail = .phase s.phase) :
    ∃ e : ErrorCause, s.wk.raisedCode = e.code := by
  injection hcode with hphase
  exact hs.failing hphase.symm

/-- The state after the end of a command by an error (R344). -/
theorem endFailed_sequencerCoherent (s : State) (e : ErrorCause) : SequencerCoherent (s.endFailed e.code) where
  assigned := show Phase.idle.toNat < 28 by decide
  busy := ⟨nofun, fun h => absurd rfl h⟩
  notBoth := nofun
  errCode := .inr ⟨e, rfl⟩
  failing := nofun
  finished _ := ⟨fun _ => e.code_ne_zero, fun _ => rfl⟩

/-- The state after the successful end of a command (R345). -/
theorem endOk_sequencerCoherent (p : Config.Params) (s : State) (v : ByteString) : SequencerCoherent (s.endOk p v) where
  assigned := show Phase.idle.toNat < 28 by decide
  busy := ⟨nofun, fun h => absurd rfl h⟩
  notBoth := nofun
  errCode := .inl rfl
  failing := nofun
  finished _ := ⟨nofun, fun h => absurd rfl h⟩

theorem PhaseCase.sequencerCoherent {s t : State} {i : Instr} (h : PhaseCase s i t) (hcode : encode i = .phase s.phase)
    (hs : SequencerCoherent s) : SequencerCoherent t := by
  cases h with
  | waits => exact hs
  | goesOn _ _ hi hgoes =>
    have hbusy : t.stBusy = true := by
      rw [hgoes.frame]
      exact hs.busy.mpr (phase_ne_zero hcode hi)
    have hdone : t.stDone = s.stDone := by rw [hgoes.frame]
    have hnotDone : t.stDone ≠ true := fun h => hs.notBoth ⟨hs.busy.mpr (phase_ne_zero hcode hi), hdone ▸ h⟩
    refine ⟨hgoes.assigned, ⟨fun _ => hgoes.running, fun _ => hbusy⟩, fun ⟨_, h⟩ => hnotDone h, ?_, hgoes.failing,
      fun h => absurd h hnotDone⟩
    rw [hgoes.frame]
    exact hs.errCode
  | finishes => exact endOk_sequencerCoherent ..
  | fails =>
    obtain ⟨e, he⟩ := hs.waiting hcode
    rw [he]
    exact endFailed_sequencerCoherent s e

theorem CommandCase.sequencerCoherent {s t : State} {w : Word} (h : CommandCase s w t) (hs : SequencerCoherent s) :
    SequencerCoherent t := by
  cases h with
  | ignored => exact hs
  | failed => exact endFailed_sequencerCoherent ..
  | ended => exact endOk_sequencerCoherent ..

/-- Accepting a command (R72). -/
theorem SequencerCoherent.accept {s : State} (hs : SequencerCoherent s) (w : Word) : SequencerCoherent (s.accept w) where
  assigned := show Phase.decode.toNat < 28 by decide
  busy := ⟨fun _ => show Phase.decode ≠ 0#5 by decide, fun _ => rfl⟩
  notBoth := nofun
  errCode := hs.errCode
  failing := nofun
  finished := nofun

theorem hostWriteReg_sequencerCoherent {s : State} (hs : SequencerCoherent s) (n : Nat) (v : Word) :
    SequencerCoherent (hostWriteReg params s n v) := by
  obtain h | ⟨-, -, h⟩ | ⟨-, _, _, _, _, h⟩ | ⟨-, i, _, _, h⟩ := hostWriteReg_cases params s n v <;> rw [h]
  · exact hs
  · exact hs.accept v
  · exact { hs with }
  · exact { hs with }

theorem hostWriteBuf_sequencerCoherent {s : State} (hs : SequencerCoherent s) (space off : Nat) (b : Byte) :
    SequencerCoherent (hostWriteBuf params s space off b) := by
  obtain h | ⟨-, ⟨-, h⟩ | ⟨-, h⟩ | ⟨-, h⟩ | ⟨-, h⟩ | ⟨-, i, h⟩ | ⟨-, i, h⟩⟩ :=
    hostWriteBuf_cases params s space off b <;> rw [h] <;> exact { hs with }

/-- The sequencer is in IDLE and every flag is 0 after reset (R370). -/
theorem resetWith_sequencerCoherent (n : Nat) : SequencerCoherent (State.resetWith n) where
  assigned := show (0#5).toNat < 28 by decide
  busy := ⟨nofun, fun h => absurd rfl h⟩
  notBoth := nofun
  errCode := .inl rfl
  failing := nofun
  finished := nofun

/-- Settles O55: a phase of a running command only moves on or raises, the ends of a command set the flags together, and the host
writes no flag but by starting a command. -/
theorem stepKeepsSequencerCoherent : Obligations.StepKeepsSequencerCoherent := fun _ _ hs hstep =>
  step_leads_to (fun _ h => h) (fun _ _ _ h => { h with }) (fun _ _ _ hs hcode _ hcase => hcase.sequencerCoherent hcode hs)
    (fun _ _ _ hs hcase => hcase.sequencerCoherent hs) (fun _ n v hs => hostWriteReg_sequencerCoherent hs n v)
    (fun _ space off b hs => hostWriteBuf_sequencerCoherent hs space off b)
    (fun _ _ => { resetWith_sequencerCoherent params.nlegMax with }) hs hstep

end Sys2Proof.Machine
end

section
/-!
SUPPORT. The bounds on WORK and OUTBUF (R345) and the guard of the master key (R231, R257, R333), phase by phase, and the statements
O56, O57 and O58.
-/

namespace Sys2Proof.Machine

/-! ### How much a phase hands on in WORK -/

/-- `n` bytes of WORK are no more than the phase with code `c` may find there. -/
structure WorkFits (c : BitVec 5) (n : Nat) : Prop where
  work : n ≤ params.outMax
  padded : c = 10#5 ∨ c = 11#5 → n ≤ 16 * (params.inMax / 16 + 1)
  encoded : c = 12#5 → n + 6 ≤ params.outMax

/-- Only CBCE, B64E and TAGPUT need a bound of their own. -/
theorem WorkFits.of_le {c : BitVec 5} {n : Nat} (hn : n ≤ params.outMax) (hc : c ≠ 10#5 ∧ c ≠ 11#5 ∧ c ≠ 12#5) :
    WorkFits c n := by
  obtain ⟨h10, h11, h12⟩ := hc
  exact ⟨hn, fun h => absurd h (not_or.mpr ⟨h10, h11⟩), fun h => absurd h h12⟩

/-- What a phase from `s` hands on in `t`: WORK within the next phase's bound, and an input that fits INBUF where the next phase is past
the entry checks. -/
structure HandsOn (s t : State) : Prop where
  work : WorkFits t.phase t.wk.work.length
  input : ¬ outsideBody t.phase → s.inLen.toNat ≤ params.inMax

/-- The next phase is outside the body of the commands. -/
theorem HandsOn.outside {s t : State} (hphase : outsideBody t.phase) (hwork : t.wk.work.length ≤ params.outMax) : HandsOn s t where
  work := WorkFits.of_le hwork (by
    refine ⟨?_, ?_, ?_⟩ <;> rintro h <;> exact absurd (h ▸ hphase) (by decide))
  input h := absurd hphase h

theorem HandsOn.raise {s : State} (hs : OutputBounded s) (wk : WorkRegs) (hwork : wk.work = s.wk.work) (e : ErrorCause) :
    HandsOn s (State.raise { s with wk := wk } e) :=
  .outside (by rw [State.raise_phase]; decide) (by
    show wk.work.length ≤ _
    rw [hwork]
    exact hs.work)

/-- A phase of the body that leaves no more in WORK than the input may have, or than there was. -/
theorem HandsOn.inside {s t : State} (hin : s.inLen.toNat ≤ params.inMax) (hwork : t.wk.work.length ≤ params.outMax)
    (hphase : t.phase ≠ 10#5 ∧ t.phase ≠ 11#5 ∧ t.phase ≠ 12#5) : HandsOn s t :=
  ⟨WorkFits.of_le hwork hphase, fun _ => hin⟩

/-- In a phase of the body the input fits INBUF. -/
theorem OutputBounded.input {s : State} (hs : OutputBounded s) {i : Instr} (hcode : encode i = .phase s.phase)
    (hbody : ∀ c, encode i = .phase c → ¬ outsideBody c) : s.inLen.toNat ≤ params.inMax := hs.inLen (hbody _ hcode)

/-- A decoded string is no longer than OUTBUF when the input fits INBUF (R10, R213). -/
theorem b64Decode_fits {text v : ByteString} (h : b64Decode params text = .ok v) (htext : text.length ≤ params.inMax) :
    v.length ≤ params.outMax :=
  (b64Decode_length_le h).trans (htext.trans params_ok.outMax.2)

/-- What E_CHECK and D_CHECK hand on: the input fits INBUF, or an error was raised (R231, R251). -/
theorem checked_handsOn {s : State} (hs : OutputBounded s) {r : Option ErrorCause} {target : BitVec 5}
    (hin : r = none → s.inLen.toNat ≤ params.inMax) (htarget : target ≠ 10#5 ∧ target ≠ 11#5 ∧ target ≠ 12#5) :
    HandsOn s (s.checked r target) := by
  cases r with
  | some e => exact .raise hs s.wk rfl e
  | none => exact .inside (hin rfl) hs.work htarget

/-- Every phase hands on no more than the next one may find. -/
theorem exec_handsOn {i : Instr} {s t : State} (hs : OutputBounded s) (hcode : encode i = .phase s.phase)
    (h : exec i s = .next t) : HandsOn s t := by
  cases i with
  | config | encrypt | encryptV | decrypt | decryptV => cases hcode
  | idle =>
    cases h
    exact ⟨⟨hs.work, hs.padded, hs.encoded⟩, hs.inLen⟩
  | decode =>
    injection h with h
    split_ifs at h <;> subst h
    · exact .raise hs s.wk rfl _
    · exact .raise hs s.wk rfl _
    all_goals exact .outside (by dsimp only [State.goTo]; decide) hs.work
  | finish | fail | cCommit =>
    cases h
    exact .outside (by dsimp only [State.endOk, State.endFailed]; decide) hs.work
  | cCheck =>
    injection h with h
    split at h <;> subst h
    · exact .raise hs s.wk rfl _
    · exact .outside (by dsimp only [State.goTo]; decide) hs.work
  | eCheck =>
    cases h
    exact checked_handsOn hs (fun h => ((eCheckError_eq_none_iff ..).mp h).1) (by decide)
  | dCheck =>
    cases h
    exact checked_handsOn hs (fun h => ((dCheckError_eq_none_iff ..).mp h).1) (by decide)
  | pad =>
    cases h
    have hin := hs.input hcode (by rintro _ ⟨⟩; decide)
    have hlength : (spad s.input).length = 16 * (s.inLen.toNat / 16 + 1) := by rw [spad_length, s.input_length]
    rw [params_inMax] at hin
    refine ⟨⟨?_, fun _ => ?_, fun h => absurd h (by dsimp only; decide)⟩, fun _ => hin⟩
    · rw [hlength, params_outMax]; omega
    · rw [hlength, params_inMax]; omega
  | cbce =>
    cases h
    have hin := hs.input hcode (by rintro _ ⟨⟩; decide)
    injection hcode with hphase
    refine ⟨⟨?_, fun _ => ?_, fun h => absurd h (by dsimp only; decide)⟩, fun _ => hin⟩ <;> rw [cbcEnc_length]
    · exact hs.work
    · exact hs.padded (.inl hphase.symm)
  | b64e =>
    cases h
    have hin := hs.input hcode (by rintro _ ⟨⟩; decide)
    injection hcode with hphase
    have hpadded := hs.padded (.inr hphase.symm)
    have hlength : (b64Encode (s.wk.ivr.val ++ s.wk.work)).length = 4 * ((16 + s.wk.work.length + 2) / 3) := by
      rw [b64Encode_length, List.length_append, s.wk.ivr.property]
    rw [params_inMax] at hpadded
    refine ⟨⟨?_, fun h => absurd h (by dsimp only; decide), fun _ => ?_⟩, fun _ => hin⟩ <;> rw [hlength, params_outMax] <;> omega
  | tagput =>
    cases h
    injection hcode with hphase
    have hencoded := hs.encoded hphase.symm
    refine .outside (by dsimp only; decide) ?_
    rw [List.length_append, (s.tagFor _).property]
    omega
  | rng | kdfInit =>
    cases h
    exact .inside (hs.input hcode (by rintro _ ⟨⟩; decide)) hs.work (by dsimp only; decide)
  | kdfIter | kdfDone =>
    cases h
    exact .inside (hs.input hcode (by rintro _ ⟨⟩; decide)) hs.work (by dsimp only; split <;> decide)
  | tagsplit | dKeychk | lKeyfit =>
    have hin := hs.input hcode (by rintro _ ⟨⟩; decide)
    injection h with h
    split at h <;> subst h
    · exact .raise hs s.wk rfl _
    · exact .inside hin hs.work (by dsimp only [State.goTo]; decide)
  | select =>
    have hin := hs.input hcode (by rintro _ ⟨⟩; decide)
    injection h with h
    dsimp only at h
    split_ifs at h <;> subst h
    · exact .inside hin hs.work (by dsimp only; decide)
    · exact .inside hin hs.work (by dsimp only; decide)
    · exact .raise hs { s.wk with expected := s.tagFor (vField s.cmdReg) } rfl _
  | b64d =>
    have hin := hs.input hcode (by rintro _ ⟨⟩; decide)
    injection h with h
    split at h <;> subst h
    · exact .raise hs s.wk rfl _
    · next hv => exact .inside hin (b64Decode_fits hv (by rw [s.payload_length]; omega)) (by dsimp only; decide)
  | lB64d =>
    have hin := hs.input hcode (by rintro _ ⟨⟩; decide)
    injection h with h
    split at h <;> subst h
    · exact .raise hs s.wk rfl _
    · next hv => exact .inside hin (b64Decode_fits hv (s.input_length.trans_le hin)) (by dsimp only; decide)
  | ivsplit =>
    have hin := hs.input hcode (by rintro _ ⟨⟩; decide)
    injection h with h
    split at h <;> subst h
    · exact .raise hs s.wk rfl _
    · exact .inside hin ((List.drop_sublist ..).length_le.trans hs.work) (by dsimp only; decide)
  | lSplit =>
    cases h
    exact .inside (hs.input hcode (by rintro _ ⟨⟩; decide)) ((List.length_take_le' ..).trans hs.work) (by dsimp only; decide)
  | cbcd =>
    have hin := hs.input hcode (by rintro _ ⟨⟩; decide)
    injection h with h
    split at h <;> subst h
    · exact .raise hs s.wk rfl _
    · next hv => exact .inside hin ((cbcDec_length hv).trans_le hs.work) (by dsimp only; decide)
  | lCbcd =>
    have hin := hs.input hcode (by rintro _ ⟨⟩; decide)
    injection h with h
    split at h <;> subst h
    · exact .raise hs { s.wk with ivr := Bytes.zero 16 } rfl _
    · next hv =>
      exact .inside hin ((cbcDec_length hv).trans_le ((List.length_take_le' ..).trans hs.work)) (by dsimp only; decide)
  | unpad =>
    injection h with h
    split at h <;> subst h
    · exact .raise hs s.wk rfl _
    · next hv => exact .outside (by dsimp only; decide) ((sunpad_length_le hv).trans hs.work)
  | lTrunc =>
    injection h with h
    split at h <;> subst h
    · exact .raise hs s.wk rfl _
    · next hv =>
      exact .outside (by dsimp only; decide) ((ztrunc_length_le hv).trans ((List.length_take_le' ..).trans hs.work))

/-! ### OUTBUF -/

/-- Where neither the output nor IN_LEN changes, the bounds are those of what is handed on. -/
theorem HandsOn.outputBounded {s t : State} (h : HandsOn s t) (hinLen : t.inLen = s.inLen)
    (hlen : t.outLen.toNat ≤ params.outMax) (htail : ∀ k, t.outLen.toNat ≤ k → t.outbuf.read k = 0#8) : OutputBounded t where
  outLen := hlen
  tail := htail
  inLen hphase := hinLen ▸ h.input hphase
  work := h.work.work
  padded := h.work.padded
  encoded := h.work.encoded

/-- The end of a command by an error leaves OUTBUF empty (R344). -/
theorem endFailed_outputBounded {s : State} (hwork : s.wk.work.length ≤ params.outMax) (code : BitVec 8) :
    OutputBounded (s.endFailed code) := by
  have hhands : HandsOn s (s.endFailed code) := .outside (.inl rfl) hwork
  refine hhands.outputBounded rfl (Nat.zero_le _) fun k _ => ?_
  rw [State.endFailed_outbuf, Memory.fill_nil]
  rfl

/-- The successful end leaves a result that fits, and 00 after it (R345). -/
theorem endOk_outputBounded {s : State} (hwork : s.wk.work.length ≤ params.outMax) {v : ByteString}
    (hv : v.length ≤ params.outMax) : OutputBounded (s.endOk params v) := by
  have hlen : (s.endOk params v).outLen.toNat = v.length := outLenOf_toNat (by rw [params_outMax] at hv; omega)
  have hhands : HandsOn s (s.endOk params v) := .outside (.inl rfl) hwork
  refine hhands.outputBounded rfl (hlen.trans_le hv) fun k hk => ?_
  rw [State.endOk_outbuf, Memory.read_fill_of_le _ _ hv, List.getD_eq_default _ _ (hlen ▸ hk)]
  rfl

theorem PhaseCase.outputBounded {s t : State} {i : Instr} (h : PhaseCase s i t) (hcode : encode i = .phase s.phase)
    (hexec : exec i s = .next t) (hs : OutputBounded s) : OutputBounded t := by
  have hhands := exec_handsOn hs hcode hexec
  cases h with
  | waits => exact hs
  | goesOn _ _ _ hgoes =>
    refine hhands.outputBounded ?_ ?_ ?_ <;> rw [hgoes.frame]
    · exact hs.outLen
    · exact hs.tail
  | finishes =>
    refine endOk_outputBounded hs.work ?_
    split
    · exact Nat.zero_le _
    · exact hs.work
  | fails => exact endFailed_outputBounded hs.work _

theorem CommandCase.outputBounded {s t : State} {w : Word} (h : CommandCase s w t) (hs : OutputBounded s) : OutputBounded t := by
  cases h with
  | ignored => exact hs
  | failed path => exact endFailed_outputBounded (s := { s.accept w with stPath := path }) hs.work _
  | ended path cfg draws _ _ hv =>
    exact endOk_outputBounded (s := { s.accept w with stPath := path, cfg := cfg, draws := draws }) hs.work hv

/-- The host writes IN_LEN only in IDLE, and a command starts at DECODE: both are outside the body. -/
theorem hostWriteReg_outputBounded {s : State} (hcoherent : SequencerCoherent s) (hs : OutputBounded s) (n : Nat) (v : Word) :
    OutputBounded (hostWriteReg params s n v) := by
  obtain h | ⟨-, -, h⟩ | ⟨hfree, _, _, _, _, h⟩ | ⟨-, i, _, _, h⟩ := hostWriteReg_cases params s n v <;> rw [h]
  · exact hs
  · have hhands : HandsOn s (s.accept v) := .outside (.inr (.inl rfl)) hs.work
    exact hhands.outputBounded rfl hs.outLen hs.tail
  · have hidle : s.phase = 0#5 := not_not.mp (mt hcoherent.busy.mpr (by simp [hfree]))
    exact { hs with inLen := fun h => absurd (.inl hidle) h }
  · exact { hs with }

theorem hostWriteBuf_outputBounded {s : State} (hs : OutputBounded s) (space off : Nat) (b : Byte) :
    OutputBounded (hostWriteBuf params s space off b) := by
  obtain h | ⟨-, ⟨-, h⟩ | ⟨-, h⟩ | ⟨-, h⟩ | ⟨-, h⟩ | ⟨-, i, h⟩ | ⟨-, i, h⟩⟩ :=
    hostWriteBuf_cases params s space off b <;> rw [h] <;> exact { hs with }

theorem resetWith_outputBounded (n : Nat) : OutputBounded (State.resetWith n) where
  outLen := Nat.zero_le _
  tail _ _ := rfl
  inLen h := absurd (.inl rfl) h
  work := Nat.zero_le _
  padded h := absurd h (show ¬ (0#5 = 10#5 ∨ 0#5 = 11#5) by decide)
  encoded h := absurd h (show ¬ 0#5 = 12#5 by decide)

/-- Settles O56: what a phase hands on in WORK fits the next one, and FINISH delivers what was handed on. -/
theorem stepKeepsOutputBounded : Obligations.StepKeepsOutputBounded := fun s _ hcoherent hs hstep =>
  step_leads_to (Q := fun s => SequencerCoherent s ∧ OutputBounded s) (fun _ h => h.2) (fun _ _ _ h => { h with })
    (fun _ _ _ h hcode hexec hcase => hcase.outputBounded hcode hexec h.2) (fun _ _ _ h hcase => hcase.outputBounded h.2)
    (fun _ n v h => hostWriteReg_outputBounded h.1 h.2 n v) (fun _ space off b h => hostWriteBuf_outputBounded h.2 space off b)
    (fun _ _ => { resetWith_outputBounded params.nlegMax with }) (s := s) ⟨hcoherent, hs⟩ hstep

/-! ### The guard of the master key -/

/-- The phases that `KeyGuarded` says something about. -/
abbrev guardedPhase (c : BitVec 5) : Prop :=
  c = 14#5 ∨ c = 15#5 ∨ c = 16#5 ∨ c = 5#5 ∨ c = 6#5 ∨ c = 7#5 ∨ c = 8#5 ∨ c = 17#5 ∨ c = 18#5

theorem KeyGuarded.of_not_guardedPhase {t : State} (h : ¬ guardedPhase t.phase) : KeyGuarded t := by
  refine ⟨fun hphase => absurd ?_ h, fun hphase => absurd ?_ h, fun hphase => absurd ?_ h, fun hphase => absurd ?_ h⟩ <;> tauto

/-- TAGSPLIT, SELECT and D_KEYCHK need a Config. -/
theorem KeyGuarded.of_configured {t : State} (hphase : t.phase = 14#5 ∨ t.phase = 15#5 ∨ t.phase = 16#5)
    (hvalid : t.cfg.valid = true) : KeyGuarded t := by
  refine ⟨fun _ => hvalid, ?_, ?_, ?_⟩ <;> obtain h | h | h := hphase <;> rw [h] <;> exact fun h => absurd h (by decide)

/-- RNG, KDF_INIT, B64D and IVSPLIT need a long key too. -/
theorem KeyGuarded.of_longKey {t : State} (hphase : t.phase = 5#5 ∨ t.phase = 6#5 ∨ t.phase = 17#5 ∨ t.phase = 18#5)
    (hkey : t.cfg.valid = true ∧ 32 ≤ t.cfg.mkey.length) : KeyGuarded t := by
  refine ⟨fun _ => hkey.1, fun _ => hkey, ?_, ?_⟩ <;> obtain h | h | h | h := hphase <;> rw [h] <;>
    exact fun h => absurd h (by decide)

/-- KDF_ITER needs a count below 10000 as well (R156). -/
theorem KeyGuarded.of_counting {t : State} (hphase : t.phase = 7#5) (hkey : t.cfg.valid = true ∧ 32 ≤ t.cfg.mkey.length)
    (hcount : 1 ≤ t.wk.kdfI.toNat ∧ t.wk.kdfI.toNat < 10000) : KeyGuarded t :=
  ⟨fun _ => hkey.1, fun _ => hkey, fun _ => hcount, by rw [hphase]; exact fun h => absurd h (by decide)⟩

/-- KDF_DONE needs the count complete (R157). -/
theorem KeyGuarded.of_counted {t : State} (hphase : t.phase = 8#5) (hkey : t.cfg.valid = true ∧ 32 ≤ t.cfg.mkey.length)
    (hcount : t.wk.kdfI.toNat = 10000) : KeyGuarded t :=
  ⟨fun _ => hkey.1, fun _ => hkey, by rw [hphase]; exact fun h => absurd h (by decide), fun _ => hcount⟩

theorem KeyGuarded.raise (s : State) (e : ErrorCause) : KeyGuarded (s.raise e) :=
  .of_not_guardedPhase (by rw [State.raise_phase]; decide)

/-- Below 10000 the counter does not wrap (R50, R156). -/
theorem kdfI_succ_toNat {i : BitVec 14} (h : i.toNat < 10000) : (i + 1#14).toNat = i.toNat + 1 := by
  rw [BitVec.toNat_add]
  exact Nat.mod_eq_of_lt (by simp; omega)

/-- One more iteration is counted, and the last one leads to KDF_DONE (R155). -/
theorem kdfIter_keyGuarded {s t : State} (hs : KeyGuarded s) (hphase : s.phase = 7#5) (h : exec .kdfIter s = .next t) :
    KeyGuarded t := by
  cases h
  have hkey := hs.longKey (by simp [hphase])
  obtain ⟨hpos, hlt⟩ := hs.counting hphase
  have hnext := kdfI_succ_toNat hlt
  by_cases hmore : (s.wk.kdfI + 1#14).toNat < Config.kdfIterations
  · exact .of_counting (if_pos hmore) hkey ⟨hnext.ge.trans' (by omega), hmore⟩
  · refine .of_counted (if_neg hmore) hkey ?_
    unfold Config.kdfIterations at hmore
    show (s.wk.kdfI + 1#14).toNat = 10000
    omega

/-- The checks of E_CHECK, D_CHECK and D_KEYCHK are what later phases rely on, and those change neither Config nor key. -/
theorem exec_keyGuarded {i : Instr} {s t : State} (hs : KeyGuarded s) (hcode : encode i = .phase s.phase)
    (h : exec i s = .next t) : KeyGuarded t := by
  cases i with
  | config | encrypt | encryptV | decrypt | decryptV => cases hcode
  | idle => cases h; exact hs
  | finish | fail | cCommit | pad | cbce | b64e | tagput | lSplit =>
    cases h
    exact .of_not_guardedPhase (by dsimp only [State.endOk, State.endFailed]; decide)
  | kdfDone =>
    cases h
    exact .of_not_guardedPhase (by dsimp only; split <;> decide)
  | decode =>
    injection h with h
    split_ifs at h <;> subst h
    · exact .raise ..
    · exact .raise ..
    all_goals exact .of_not_guardedPhase (by rw [State.goTo_phase]; decide)
  | cCheck | cbcd | unpad | lKeyfit | lB64d | lCbcd | lTrunc =>
    injection h with h
    split at h <;> subst h
    · exact .raise ..
    · exact .of_not_guardedPhase (by dsimp only [State.goTo]; decide)
  | eCheck =>
    injection h with h
    split at h <;> subst h
    · exact .raise ..
    · next hchecks =>
      obtain ⟨-, hvalid, hlong⟩ := (eCheckError_eq_none_iff ..).mp hchecks
      exact .of_longKey (.inl rfl) ⟨hvalid, hlong⟩
  | dCheck =>
    injection h with h
    split at h <;> subst h
    · exact .raise ..
    · next hchecks => exact .of_configured (.inl rfl) ((dCheckError_eq_none_iff ..).mp hchecks).2
  | rng =>
    cases h
    injection hcode with hphase
    exact .of_longKey (.inr (.inl rfl)) (hs.longKey (.inl hphase.symm))
  | kdfInit =>
    cases h
    injection hcode with hphase
    exact .of_counting rfl (hs.longKey (.inr (.inl hphase.symm))) ⟨le_rfl, show 1 < 10000 by omega⟩
  | kdfIter =>
    injection hcode with hphase
    exact kdfIter_keyGuarded hs hphase.symm h
  | tagsplit =>
    injection hcode with hphase
    injection h with h
    split at h <;> subst h
    · exact .raise ..
    · exact .of_configured (.inr (.inl rfl)) (hs.configured (.inl hphase.symm))
  | select =>
    injection hcode with hphase
    injection h with h
    dsimp only at h
    split_ifs at h <;> subst h
    · exact .of_configured (.inr (.inr rfl)) (hs.configured (.inr (.inl hphase.symm)))
    · exact .of_not_guardedPhase (by dsimp only; decide)
    · exact .raise ..
  | dKeychk =>
    injection hcode with hphase
    injection h with h
    split at h <;> subst h
    · exact .raise ..
    · next hlong =>
      exact .of_longKey (.inr (.inr (.inl rfl))) ⟨hs.configured (.inr (.inr hphase.symm)), Nat.not_lt.mp hlong⟩
  | b64d =>
    injection hcode with hphase
    injection h with h
    split at h <;> subst h
    · exact .raise ..
    · exact .of_longKey (.inr (.inr (.inr rfl))) (hs.longKey (by simp [← hphase, Phase.b64d]))
  | ivsplit =>
    injection hcode with hphase
    injection h with h
    split at h <;> subst h
    · exact .raise ..
    · exact .of_longKey (.inr (.inl rfl)) (hs.longKey (by simp [← hphase, Phase.ivsplit]))

theorem CommandCase.keyGuarded {s t : State} {w : Word} (h : CommandCase s w t) (hs : KeyGuarded s) : KeyGuarded t := by
  have hidle : ¬ guardedPhase Phase.idle := by decide
  cases h with
  | ignored => exact hs
  | failed => exact .of_not_guardedPhase hidle
  | ended => exact .of_not_guardedPhase hidle

theorem hostWriteReg_keyGuarded {s : State} (hs : KeyGuarded s) (n : Nat) (v : Word) :
    KeyGuarded (hostWriteReg params s n v) := by
  obtain h | ⟨-, -, h⟩ | ⟨-, _, _, _, _, h⟩ | ⟨-, i, _, _, h⟩ := hostWriteReg_cases params s n v <;> rw [h]
  · exact hs
  · exact .of_not_guardedPhase (by rw [State.accept_phase]; decide)
  · exact { hs with }
  · exact { hs with }

theorem hostWriteBuf_keyGuarded {s : State} (hs : KeyGuarded s) (space off : Nat) (b : Byte) :
    KeyGuarded (hostWriteBuf params s space off b) := by
  obtain h | ⟨-, ⟨-, h⟩ | ⟨-, h⟩ | ⟨-, h⟩ | ⟨-, h⟩ | ⟨-, i, h⟩ | ⟨-, i, h⟩⟩ :=
    hostWriteBuf_cases params s space off b <;> rw [h] <;> exact { hs with }

theorem resetWith_keyGuarded (n : Nat) : KeyGuarded (State.resetWith n) :=
  .of_not_guardedPhase (show ¬ guardedPhase 0#5 by decide)

/-- Settles O57: a phase that uses the key is reached from a check of the key, or from another such phase. -/
theorem stepKeepsKeyGuarded : Obligations.StepKeepsKeyGuarded := fun _ _ hs hstep =>
  step_leads_to (fun _ h => h) (fun _ _ _ h => { h with }) (fun _ _ _ hs hcode hexec _ => exec_keyGuarded hs hcode hexec)
    (fun _ _ _ hs hcase => hcase.keyGuarded hs) (fun _ n v hs => hostWriteReg_keyGuarded hs n v)
    (fun _ space off b hs => hostWriteBuf_keyGuarded hs space off b)
    (fun _ _ => { resetWith_keyGuarded params.nlegMax with }) hs hstep

/-- Settles O58: the reset state is the one of `resetWith` at the default number of slots. -/
theorem resetMeetsTheInvariants : Obligations.ResetMeetsTheInvariants :=
  ⟨resetWith_spacesCanonical, resetWith_sequencerCoherent _, resetWith_outputBounded _, resetWith_keyGuarded _⟩

end Sys2Proof.Machine
end

section
/-!
SUPPORT. The key derivation: the three phases compute PBKDF2 (R154 to R157, R316, R317), under any parameters, and the statements O22,
O23 and O24.
-/

namespace Sys2Proof.Machine

/-! ### Runs of the machine under any parameters -/

/-- With nothing on the agenda a step runs the micro-operation of PHASE (R24; log 2). -/
theorem stepWith_of_engine (p : Config.Params) (iv : Bytes 16) {i : Instr} {s : State} (hagenda : s.agenda = [])
    (hphase : decodePhase s.phase = some i) : stepWith p iv s = execWith p iv i s := by
  simp [stepWith, agendaStep, engineStep, hagenda, hphase]

/-- A run of the engine begins with the micro-operation of PHASE. -/
theorem run_of_exec {p : Config.Params} {i : Instr} {s t : State} (hagenda : s.agenda = [])
    (hphase : decodePhase s.phase = some i) (h : execWith p s.nextDraw i s = .next t) {n m : Nat} (hn : n = m + 1) :
    (coreWith p).run n s = (coreWith p).run m t := by
  subst hn
  exact run_succ (coreWith p) m s t ((stepWith_of_engine p s.nextDraw hagenda hphase).trans h)

/-- Machines whose steps agree run alike, wherever they start after reset. -/
theorem run_congr {σ φ ρ : Type} {f g : σ → Host.Outcome σ φ ρ} (h : ∀ s, f s = g s) (r r' : σ) (n : Nat) (s : σ) :
    Host.Core.run ⟨σ, φ, ρ, f, r⟩ n s = Host.Core.run ⟨σ, φ, ρ, g, r'⟩ n s := by
  obtain rfl : f = g := funext h
  induction n generalizing s with
  | zero => rfl
  | succ n ih =>
    simp only [Host.Core.run]
    split
    · exact ih _
    · rfl
    · rfl

/-- The machine handed to the host runs as the one of all parameters does at the defaults (R10; log 6). -/
theorem core_run_eq (n : Nat) (s : State) : core.run n s = (coreWith params).run n s :=
  run_congr step_eq_stepWith State.reset (State.resetWith params.nlegMax) n s

/-! ### The iterations -/

/-- The key that the three phases derive: the first block of PBKDF2 (R316). Irreducible, so that no check of a definitional equality
runs its ten thousand calls. -/
@[irreducible] def derivedKey (p : Config.Params) (mkey salt : ByteString) : Bytes 32 := pbkdf2T p.prf mkey salt Config.kdfIterations 1

/-- The block index 1 as four bytes, most significant first (R154, R316). -/
theorem beBytes_blockIndex : beBytes 4 1 = [0#8, 0#8, 0#8, 1#8] := by decide

/-- The first PRF call of a derivation (R154). -/
def firstCall (p : Config.Params) (mkey salt : ByteString) : Bytes 32 := p.prf mkey (salt ++ [0#8, 0#8, 0#8, 1#8])

/-- The first call, and the 9999 that follow it. -/
theorem derivedKey_eq (p : Config.Params) (mkey salt : ByteString) :
    derivedKey p mkey salt = pbkdf2Block p.prf mkey 9999 (firstCall p mkey salt) (firstCall p mkey salt) := by
  have hcalls : Config.kdfIterations - 1 = 9999 := rfl
  unfold derivedKey pbkdf2T firstCall
  rw [beBytes_blockIndex, hcalls]

/-- One block of 32 bytes is the whole derived key (R317). -/
theorem KdfIsPbkdf2.kdfn_eq {p : Config.Params} (h : KdfIsPbkdf2 p) (mkey salt : ByteString) :
    p.kdfn mkey salt = derivedKey p mkey salt := by
  have hblock : pbkdf2 p.prf mkey salt Config.kdfIterations 32 = (derivedKey p mkey salt).val := by
    have hlength : (pbkdf2T p.prf mkey salt Config.kdfIterations 1).val.length = 32 :=
      (pbkdf2T p.prf mkey salt Config.kdfIterations 1).property
    unfold derivedKey
    rw [pbkdf2, show (32 + 31) / 32 = 1 from rfl, List.range_one, List.map_singleton, List.flatten_singleton,
      Nat.zero_add, List.take_of_length_le hlength.le]
  rw [h, hblock, Bytes.ofList_self]

/-- One iteration (R155). -/
def State.kdfIterated (p : Config.Params) (s : State) : State :=
  { s with
    wk.kdfU := p.prf s.cfg.mkey s.wk.kdfU.val
    wk.kdfT := xorReg s.wk.kdfT (p.prf s.cfg.mkey s.wk.kdfU.val)
    wk.kdfI := s.wk.kdfI + 1#14
    phase := if (s.wk.kdfI + 1#14).toNat < Config.kdfIterations then Phase.kdfIter else Phase.kdfDone }

theorem execWith_kdfIter (p : Config.Params) (iv : Bytes 16) (s : State) :
    execWith p iv .kdfIter s = .next (s.kdfIterated p) := rfl

/-- The state with the derivation complete, at KDF_DONE. -/
def State.kdfComplete (s : State) (u t : Bytes 32) : State :=
  { s with wk.kdfU := u, wk.kdfT := t, wk.kdfI := 10000#14, phase := Phase.kdfDone }

/-- KDF_ITER repeats until the counter is 10000, and folds one PRF call each time: the recursion of R316's block (R155, R156). -/
theorem run_kdfIter (p : Config.Params) {n : Nat} {s : State} (hagenda : s.agenda = []) (hphase : s.phase = Phase.kdfIter)
    (hcounter : s.wk.kdfI.toNat < 10000) (hn : s.wk.kdfI.toNat + n = 10000) :
    ∃ u, (coreWith p).run n s = .next (s.kdfComplete u (pbkdf2Block p.prf s.cfg.mkey n s.wk.kdfU s.wk.kdfT)) := by
  have hnext := kdfI_succ_toNat hcounter
  have hexec := execWith_kdfIter p s.nextDraw s
  have hdecode : decodePhase s.phase = some .kdfIter := by rw [hphase]; rfl
  induction n generalizing s with
  | zero => omega
  | succ n ih =>
    rw [run_of_exec hagenda hdecode hexec rfl]
    by_cases hlast : s.wk.kdfI.toNat + 1 = 10000
    · obtain rfl : n = 0 := by omega
      have hfull : s.wk.kdfI + 1#14 = 10000#14 := BitVec.eq_of_toNat_eq (by rw [hnext, BitVec.toNat_ofNat]; omega)
      refine ⟨p.prf s.cfg.mkey s.wk.kdfU.val, ?_⟩
      rw [State.kdfIterated, hfull]
      rfl
    · have hmore : (s.kdfIterated p).phase = Phase.kdfIter :=
        if_pos (by rw [hnext]; unfold Config.kdfIterations; omega)
      have hkdfI : (s.kdfIterated p).wk.kdfI.toNat = s.wk.kdfI.toNat + 1 := hnext
      have hcounter' : (s.kdfIterated p).wk.kdfI.toNat < 10000 := by omega
      exact ih (s := s.kdfIterated p) hagenda hmore hcounter' (by omega) (kdfI_succ_toNat hcounter') (execWith_kdfIter ..)
        (by rw [hmore]; rfl)

/-! ### The whole derivation -/

/-- The state with the derived key delivered (R157). -/
def State.kdfDelivered (s : State) (u t : Bytes 32) : State :=
  { s with
    wk.kdfU := u, wk.kdfT := t, wk.kdfI := 10000#14, wk.dkey := t
    phase := if opcField s.cmdReg = 0x02#8 then Phase.pad else Phase.cbcd }

/-- The state after the first PRF call (R154). -/
def State.kdfStarted (p : Config.Params) (s : State) : State :=
  { s with
    wk.kdfU := firstCall p s.cfg.mkey s.wk.ivr.val
    wk.kdfT := firstCall p s.cfg.mkey s.wk.ivr.val
    wk.kdfI := 1#14
    phase := Phase.kdfIter }

/-- From KDF_INIT the engine, left to itself, delivers the derived key after 10001 phases (R156, R157). -/
theorem run_kdf (p : Config.Params) {s : State} (hagenda : s.agenda = []) (hphase : s.phase = Phase.kdfInit) :
    ∃ u, (coreWith p).run 10001 s = .next (s.kdfDelivered u (derivedKey p s.cfg.mkey s.wk.ivr.val)) := by
  have hone : (s.kdfStarted p).wk.kdfI.toNat = 1 := rfl
  obtain ⟨u, hiterations⟩ := run_kdfIter p (n := 9999) (s := s.kdfStarted p) hagenda rfl (by omega) (by omega)
  have hkey : pbkdf2Block p.prf (s.kdfStarted p).cfg.mkey 9999 (s.kdfStarted p).wk.kdfU (s.kdfStarted p).wk.kdfT =
      derivedKey p s.cfg.mkey s.wk.ivr.val := (derivedKey_eq p s.cfg.mkey s.wk.ivr.val).symm
  rw [hkey] at hiterations
  refine ⟨u, ?_⟩
  have hinit : execWith p s.nextDraw .kdfInit s = .next (s.kdfStarted p) := rfl
  rw [run_of_exec hagenda (i := .kdfInit) (by rw [hphase]; rfl) hinit (n := 10001) (m := 10000) (by omega),
    run_add (coreWith p) 9999 1 _ _ hiterations]
  exact run_of_exec (s := (s.kdfStarted p).kdfComplete u _) hagenda (i := .kdfDone) rfl rfl rfl

/-! ### The statements -/

/-- Settles O22: both phases write working registers and PHASE alone. -/
theorem kdfStartAndEnd : Obligations.KdfStartAndEnd := by
  intro s
  have hopc : (if opcField s.cmdReg = 0x02#8 then Phase.pad else Phase.cbcd) =
      if s.cmdReg.toNat % 256 = 2 then 9#5 else 19#5 := by
    simp only [opcField_eq_iff, BitVec.reduceToNat]
    rfl
  refine ⟨⟨_, rfl, SameBytes.refl s, rfl⟩, ⟨_, rfl, SameBytes.refl s, ?_⟩⟩
  rw [hopc]

/-- Settles O23: the exclusive-or is byte by byte, and the counter does not wrap below 10000. -/
theorem kdfIterFoldsOnePrfCall : Obligations.KdfIterFoldsOnePrfCall := by
  intro s hcount
  refine ⟨s.kdfIterated params, rfl, SameBytes.refl s, rfl, fun i _ => ?_, kdfI_succ_toNat hcount, rfl, rfl⟩
  have hlength : s.wk.kdfT.val.length = (params.prf s.cfg.mkey s.wk.kdfU.val).val.length := by
    rw [s.wk.kdfT.property, (params.prf _ _).property]
  exact xorBytes_getD _ _ hlength i

/-- Settles O24: the default key derivation is the PBKDF2 that the phases compute. -/
theorem stateMachineComputesTheKdf : Obligations.StateMachineComputesTheKdf := by
  intro s hagenda hphase
  obtain ⟨u, hrun⟩ := run_kdf params hagenda hphase
  have hphase' : (s.kdfDelivered u (derivedKey params s.cfg.mkey s.wk.ivr.val)).phase =
      if s.cmdReg.toNat % 256 = 2 then 9#5 else 19#5 := by
    simp only [State.kdfDelivered, opcField_eq_iff, BitVec.reduceToNat]
    rfl
  have hkey : derivedKey params s.cfg.mkey s.wk.ivr.val = params.kdfn s.cfg.mkey s.wk.ivr.val :=
    (params_kdfIsPbkdf2.kdfn_eq s.cfg.mkey s.wk.ivr.val).symm
  exact ⟨_, (core_run_eq 10001 s).trans hrun, hkey, rfl, hphase', rfl⟩

end Sys2Proof.Machine
end

section
/-!
SUPPORT. The phases implement the commands (R19, R72), under any parameters: from the last phase of each command back to DECODE, what the
state is when the engine is idle again. At the end the statement O60.
-/

namespace Sys2Proof.Machine

/-! ### Runs to the end of a command -/

/-- The engine, left to itself, is to run the micro-operation `i`. -/
structure EngineAt (i : Instr) (s : State) : Prop where
  agenda : s.agenda = []
  code : encode i = .phase s.phase

theorem EngineAt.decode_eq {i : Instr} {s : State} (h : EngineAt i s) : decodePhase s.phase = some i := by
  have hdecode : decode (.phase s.phase) = some i := h.code ▸ (codeFits i).2
  exact hdecode

/-- After `n` phases from `s` the engine is idle, and but for the working registers the state is `r`. -/
def EndsAs (p : Config.Params) (n : Nat) (s r : State) : Prop :=
  ∃ t, (coreWith p).run n s = .next t ∧ EngineAt .idle t ∧ t.withoutWork = r.withoutWork

theorem EndsAs.congr {p : Config.Params} {n : Nat} {s r r' : State} (h : EndsAs p n s r)
    (hr : r.withoutWork = r'.withoutWork) : EndsAs p n s r' := by
  obtain ⟨t, hrun, hidle, ht⟩ := h
  exact ⟨t, hrun, hidle, ht.trans hr⟩

/-- An idle engine left to itself stays as it is (R24). -/
theorem EngineAt.run_idle {p : Config.Params} {s : State} (h : EngineAt .idle s) (n : Nat) :
    (coreWith p).run n s = .next s := by
  induction n with
  | zero => rfl
  | succ n ih => rw [run_of_exec h.agenda h.decode_eq rfl rfl, ih]

/-- Further phases change nothing. -/
theorem EndsAs.mono {p : Config.Params} {n m : Nat} {s r : State} (h : EndsAs p n s r) (hnm : n ≤ m) : EndsAs p m s r := by
  obtain ⟨t, hrun, hidle, ht⟩ := h
  obtain ⟨k, rfl⟩ := Nat.exists_eq_add_of_le hnm
  exact ⟨t, (run_add (coreWith p) n k s t hrun).trans (hidle.run_idle k), hidle, ht⟩

/-- One phase, and then the rest. -/
theorem EngineAt.endsAs {p : Config.Params} {i : Instr} {n : Nat} {s u r : State} (h : EngineAt i s)
    (hexec : execWith p s.nextDraw i s = .next u) (hrest : EndsAs p n u r) : EndsAs p (n + 1) s r := by
  obtain ⟨t, hrun, hidle, ht⟩ := hrest
  exact ⟨t, (run_of_exec h.agenda h.decode_eq hexec rfl).trans hrun, hidle, ht⟩

/-! ### FINISH and FAIL -/

theorem EngineAt.endsAs_finish {p : Config.Params} {s : State} (h : EngineAt .finish s) :
    EndsAs p 1 s (s.endOk p (if opcField s.cmdReg = 0x01#8 then [] else s.wk.work)) :=
  h.endsAs rfl ⟨_, rfl, ⟨h.agenda, rfl⟩, rfl⟩

/-- The result of a command other than CONFIG is WORK. -/
theorem EngineAt.endsAs_finish_work {p : Config.Params} {s : State} (h : EngineAt .finish s)
    (hopc : opcField s.cmdReg ≠ 0x01#8) : EndsAs p 1 s (s.endOk p s.wk.work) := by
  have hfinish := h.endsAs_finish (p := p)
  rwa [if_neg hopc] at hfinish

/-- A raised error is reported by the next phase, FAIL (R344). -/
theorem endsAs_raise {p : Config.Params} {s : State} (hagenda : s.agenda = []) (wk : WorkRegs) (e : ErrorCause) :
    EndsAs p 1 (State.raise { s with wk := wk } e) (s.endFailed e.code) := by
  have h : EngineAt .fail (State.raise { s with wk := wk } e) := ⟨hagenda, rfl⟩
  exact h.endsAs rfl ⟨_, rfl, ⟨hagenda, rfl⟩, rfl⟩

/-- A phase that raises an error when a check finds one, and goes on otherwise. -/
theorem EngineAt.endsAs_check {p : Config.Params} {i : Instr} {n : Nat} {s r : State} (h : EngineAt i s)
    (check : Option ErrorCause) {target : BitVec 5}
    (hexec : execWith p s.nextDraw i s = .next (s.checked check target)) (hn : 1 ≤ n)
    (herror : ∀ e, check = some e → r = s.endFailed e.code)
    (hrest : check = none → EndsAs p n (s.goTo target) r) : EndsAs p (n + 1) s r := by
  refine h.endsAs hexec ?_
  cases check with
  | some e => exact herror e rfl ▸ (endsAs_raise h.agenda s.wk e).mono hn
  | none => exact hrest rfl

/-- A phase that raises the error of a codec, or goes on with its answer. -/
theorem EngineAt.endsAs_bind {p : Config.Params} {i : Instr} {n : Nat} {s : State} (h : EngineAt i s)
    {wk : WorkRegs} {answer : Except ErrorCause ByteString} {next : ByteString → State}
    {rest : ByteString → Except ErrorCause ByteString} (hn : 1 ≤ n)
    (herror : ∀ e, answer = .error e → execWith p s.nextDraw i s = .next (State.raise { s with wk := wk } e))
    (hok : ∀ v, answer = .ok v → execWith p s.nextDraw i s = .next (next v))
    (hrest : ∀ v, answer = .ok v → EndsAs p n (next v) (s.endWith p (rest v))) :
    EndsAs p (n + 1) s (s.endWith p (answer.bind rest)) := by
  cases answer with
  | error e => exact h.endsAs (herror e rfl) ((endsAs_raise h.agenda wk e).mono hn)
  | ok v => exact h.endsAs (hok v rfl) (hrest v rfl)

/-- The last phase of a decryption delivers what its codec answers. -/
theorem EngineAt.endsAs_deliver {p : Config.Params} {i : Instr} {s : State} (h : EngineAt i s)
    (hopc : opcField s.cmdReg ≠ 0x01#8) {answer : Except ErrorCause ByteString}
    (hexec : execWith p s.nextDraw i s = .next (s.deliver answer)) : EndsAs p 2 s (s.endWith p answer) := by
  refine h.endsAs hexec ?_
  cases answer with
  | error e => exact endsAs_raise h.agenda s.wk e
  | ok v =>
    have hfinish : EngineAt .finish (s.deliver (.ok v)) := ⟨h.agenda, rfl⟩
    exact hfinish.endsAs_finish_work hopc

/-! ### CONFIG -/

theorem EngineAt.endsAs_cCheck {p : Config.Params} {s : State} (h : EngineAt .cCheck s) (hopc : opcField s.cmdReg = 0x01#8) :
    EndsAs p 3 s (configCommand p s) := by
  refine h.endsAs_check (cCheckError p s) rfl (by omega) (fun e he => by rw [configCommand, he]) fun hnone => ?_
  have hcommit : EngineAt .cCommit (s.goTo Phase.cCommit) := ⟨h.agenda, rfl⟩
  refine hcommit.endsAs rfl ?_
  have hfinish : EngineAt .finish { s with cfg := s.stagedConfig, phase := Phase.finish } := ⟨h.agenda, rfl⟩
  have hends := hfinish.endsAs_finish (p := p)
  rw [if_pos hopc] at hends
  rw [configCommand, hnone]
  exact hends.congr rfl

/-! ### The key derivation -/

/-- The derivation delivers the key that KDFN gives (R151, R153). -/
theorem EngineAt.endsAs_kdf {p : Config.Params} (hp : KdfIsPbkdf2 p) {n : Nat} {s r : State} (h : EngineAt .kdfInit s)
    (hrest : ∀ u key, p.kdfn s.cfg.mkey s.wk.ivr.val = key → EndsAs p n (s.kdfDelivered u key) r) :
    EndsAs p (10001 + n) s r := by
  have hphase : s.phase = Phase.kdfInit := by
    have hcode := h.code
    injection hcode with hphase
    exact hphase.symm
  obtain ⟨u, hkdf⟩ := run_kdf p h.agenda hphase
  obtain ⟨t, hrun, hidle, ht⟩ := hrest u _ (hp.kdfn_eq ..)
  exact ⟨t, (run_add (coreWith p) 10001 n s _ hkdf).trans hrun, hidle, ht⟩

/-! ### ENCRYPT -/

theorem EngineAt.endsAs_tagput {p : Config.Params} {s : State} (h : EngineAt .tagput s) (hopc : opcField s.cmdReg ≠ 0x01#8) :
    EndsAs p 2 s (s.endOk p ((s.tagFor (vField s.cmdReg)).val ++ s.wk.work)) :=
  h.endsAs rfl (.congr (EngineAt.endsAs_finish_work ⟨h.agenda, rfl⟩ hopc) rfl)

/-- CBCE, B64E and TAGPUT put the ciphertext string together from the padded plaintext (R233). -/
theorem EngineAt.endsAs_cbce {p : Config.Params} {s : State} (h : EngineAt .cbce s) (hopc : opcField s.cmdReg ≠ 0x01#8) :
    EndsAs p 4 s (s.endOk p ((s.tagFor (vField s.cmdReg)).val ++
      b64Encode (s.wk.ivr.val ++ cbcEnc p.bc s.wk.dkey.val s.wk.ivr s.wk.work))) := by
  refine h.endsAs rfl (EngineAt.endsAs (i := .b64e) ⟨h.agenda, rfl⟩ rfl ?_)
  exact .congr (EngineAt.endsAs_tagput ⟨h.agenda, rfl⟩ hopc) rfl

/-- From KDF_INIT on, ENCRYPT delivers the ciphertext string of R233 for the IV in IVR. -/
theorem EngineAt.endsAs_kdfInit_encrypt {p : Config.Params} (hp : KdfIsPbkdf2 p) {s : State} (h : EngineAt .kdfInit s)
    (hopc : opcField s.cmdReg = 0x02#8) :
    EndsAs p 10006 s (s.endOk p (encText p s.cfg.mkey (s.tagFor (vField s.cmdReg)) s.input s.wk.ivr)) := by
  refine h.endsAs_kdf hp (n := 5) fun u key hkey => ?_
  have hpad : EngineAt .pad (s.kdfDelivered u key) :=
    ⟨h.agenda, congrArg Code.phase (if_pos hopc).symm⟩
  refine hpad.endsAs rfl ?_
  have hnotConfig : opcField s.cmdReg ≠ 0x01#8 := by rw [hopc]; decide
  unfold encText
  rw [hkey]
  exact .congr (EngineAt.endsAs_cbce ⟨h.agenda, rfl⟩ hnotConfig) rfl

/-- From E_CHECK on, the phases give what ENCRYPT as one transition gives (R230). -/
theorem EngineAt.endsAs_eCheck {p : Config.Params} (hp : KdfIsPbkdf2 p) {s : State} (h : EngineAt .eCheck s)
    (hopc : opcField s.cmdReg = 0x02#8) : EndsAs p 10008 s (encryptCommand p s.nextDraw (vField s.cmdReg) s) := by
  refine h.endsAs_check (n := 10007) (eCheckError p s) rfl (by omega) (fun e he => by rw [encryptCommand, he]) fun hnone => ?_
  rw [encryptCommand, hnone]
  have hrng : EngineAt .rng (s.goTo Phase.rng) := ⟨h.agenda, rfl⟩
  refine hrng.endsAs (n := 10006) rfl ?_
  exact .congr (EngineAt.endsAs_kdfInit_encrypt hp ⟨h.agenda, rfl⟩ hopc) rfl

end Sys2Proof.Machine
end

section
/-!
SUPPORT. DECRYPT as a chain of codecs (R250, R280), each answered by one phase, and so the phases of DECRYPT; then DECODE, and the
statement O60.
-/

namespace Sys2Proof.Machine

/-! ### DECRYPT as a chain of codecs -/

/-- What IVSPLIT and the phases after it make of the decoded payload (R250 step 3). -/
def decryptBuffer (p : Config.Params) (mkey buf : ByteString) : Except ErrorCause ByteString :=
  if buf.length < 16 then .error .ivShort
  else (cbcDec p.bc (p.kdfn mkey (buf.take 16)).val (Bytes.ofList 16 buf) (buf.drop 16)).bind sunpad

theorem currentDecrypt_eq (p : Config.Params) (mkey payload : ByteString) :
    currentDecrypt p mkey payload =
      if mkey.length < Config.mkeyMin then .error .keyTooShort
      else (b64Decode p payload).bind (decryptBuffer p mkey) := by
  unfold currentDecrypt decryptBuffer
  split_ifs
  · rfl
  cases b64Decode p payload with
  | error e => rfl
  | ok buf =>
    simp only [Except.bind]
    split_ifs
    · rfl
    · cases cbcDec p.bc (p.kdfn mkey (buf.take 16)).val (Bytes.ofList 16 buf) (buf.drop 16) <;> rfl

/-- What L_SPLIT and the phases after it make of the decoded string (R280, steps 3 to 5). -/
def legacyBuffer (p : Config.Params) (key buf : ByteString) : Except ErrorCause ByteString :=
  (cbcDec p.bc key (Bytes.zero 16) (buf.take (prefixLength buf.length))).bind fun dec => ztrunc dec (trailerLength p buf)

theorem legacyDecrypt_eq (p : Config.Params) (lk s : ByteString) :
    legacyDecrypt p lk s = (keyfit lk).bind fun key => (b64Decode p s).bind (legacyBuffer p key) := by
  unfold legacyDecrypt legacyBuffer
  cases keyfit lk with
  | error e => rfl
  | ok key =>
    cases b64Decode p s with
    | error e => rfl
    | ok buf =>
      simp only [Except.bind]
      cases cbcDec p.bc key (Bytes.zero 16) (buf.take (prefixLength buf.length)) <;> rfl

/-- The whole DECRYPT of a string that has a tag: the branch is told by the tag (R253, R254). -/
theorem decryptText_of_tag {p : Config.Params} {s : State} (hlong : 6 ≤ s.inLen.toNat) (expected : Bytes 6) :
    (s.inputTag = expected → decryptText p s.cfg s.input expected = (.current, currentDecrypt p s.cfg.mkey s.payload)) ∧
    (s.inputTag ≠ expected → ∀ lk, s.zeroVeKey = some lk →
      decryptText p s.cfg s.input expected = (.legacy, legacyDecrypt p lk s.input)) ∧
    (s.inputTag ≠ expected → s.zeroVeKey = none →
      decryptText p s.cfg s.input expected = (.noBranch, .error .unsupportedVersion)) := by
  have hnotShort : ¬ s.input.length < 6 := by rw [s.input_length]; omega
  have htag : s.input.take 6 = expected.val ↔ s.inputTag = expected := by
    rw [Subtype.ext_iff, s.inputTag_val, State.input, Memory.readBytes_take _ _ _ _ hlong]
  have hzeroVe : s.zeroVeKey = legLookup s.cfg.legacy Config.reservedTag := rfl
  refine ⟨fun h => ?_, fun h lk hlk => ?_, fun h hnone => ?_⟩ <;> rw [decryptText, if_neg hnotShort]
  · rw [if_pos (htag.mpr h), s.input_drop]
  · rw [if_neg (mt htag.mp h), ← hzeroVe, hlk]
  · rw [if_neg (mt htag.mp h), ← hzeroVe, hnone]

/-- The end of a DECRYPT whose entry checks pass (R250). -/
def State.decrypted (p : Config.Params) (v : Bool) (s : State) : State :=
  State.endWith p { s with stPath := (decryptText p s.cfg s.input (s.tagFor v)).1 }
    (decryptText p s.cfg s.input (s.tagFor v)).2

theorem decryptCommand_of_error {p : Config.Params} {v : Bool} {s : State} {e : ErrorCause} (h : dCheckError p s = some e) :
    decryptCommand p v s = s.endFailed e.code := by rw [decryptCommand, h]

theorem decryptCommand_of_none {p : Config.Params} {v : Bool} {s : State} (h : dCheckError p s = none) :
    decryptCommand p v s = s.decrypted p v := by
  rw [decryptCommand, h]
  rfl

theorem State.decrypted_eq {p : Config.Params} {v : Bool} {s : State} {path : Path} {answer : Except ErrorCause ByteString}
    (h : decryptText p s.cfg s.input (s.tagFor v) = (path, answer)) :
    s.decrypted p v = State.endWith p { s with stPath := path } answer := by rw [State.decrypted, h]

/-! ### Ends of commands from states that differ in working registers -/

/-- The state without what the end of a command overwrites of the sequencer, and without the working registers. -/
def State.beforeEnd (s : State) : State := { s with phase := Phase.idle, wk := WorkRegs.reset }

/-- The working registers and PHASE do not survive the end of a command (R46). -/
theorem EndsAs.endWith_congr {p : Config.Params} {n : Nat} {s u u' : State} {answer : Except ErrorCause ByteString}
    (h : EndsAs p n s (u.endWith p answer)) (hu : u.beforeEnd = u'.beforeEnd) : EndsAs p n s (u'.endWith p answer) := by
  have hbefore (u : State) : (u.endWith p answer).withoutWork = (u.beforeEnd.endWith p answer).withoutWork := by
    cases answer <;> rfl
  exact h.congr (by rw [hbefore u, hbefore u', hu])

/-! ### The current path -/

theorem EngineAt.endsAs_cbcd {p : Config.Params} {s : State} (h : EngineAt .cbcd s) (hopc : opcField s.cmdReg ≠ 0x01#8) :
    EndsAs p 3 s (s.endWith p ((cbcDec p.bc s.wk.dkey.val s.wk.ivr s.wk.work).bind sunpad)) := by
  refine h.endsAs_bind (wk := s.wk) (next := fun v => { s with wk.work := v, phase := Phase.unpad }) (by omega)
    (fun e he => by rw [execWith, cbcdWith, he]) (fun v hv => by rw [execWith, cbcdWith, hv]) fun v _ => ?_
  have hunpad : EngineAt .unpad { s with wk.work := v, phase := Phase.unpad } := ⟨h.agenda, rfl⟩
  exact (hunpad.endsAs_deliver hopc rfl).endWith_congr rfl

theorem EngineAt.endsAs_kdfInit_decrypt {p : Config.Params} (hp : KdfIsPbkdf2 p) {s : State} (h : EngineAt .kdfInit s)
    (hopc : opcField s.cmdReg = 0x03#8) :
    EndsAs p 10004 s (s.endWith p
      ((cbcDec p.bc (p.kdfn s.cfg.mkey s.wk.ivr.val).val s.wk.ivr s.wk.work).bind sunpad)) := by
  refine h.endsAs_kdf hp (n := 3) fun u key hkey => ?_
  have hcbcd : EngineAt .cbcd (s.kdfDelivered u key) :=
    ⟨h.agenda, congrArg Code.phase (if_neg (by rw [hopc]; decide)).symm⟩
  rw [hkey]
  exact (hcbcd.endsAs_cbcd (show opcField s.cmdReg ≠ _ by rw [hopc]; decide)).endWith_congr rfl

theorem EngineAt.endsAs_ivsplit {p : Config.Params} (hp : KdfIsPbkdf2 p) {s : State} (h : EngineAt .ivsplit s)
    (hopc : opcField s.cmdReg = 0x03#8) : EndsAs p 10005 s (s.endWith p (decryptBuffer p s.cfg.mkey s.wk.work)) := by
  have hexec : execWith p s.nextDraw .ivsplit s =
    .next (if s.wk.work.length < 16 then s.raise .ivShort else s.splitIv) := rfl
  unfold decryptBuffer
  by_cases hshort : s.wk.work.length < 16
  · rw [if_pos hshort] at hexec ⊢
    exact h.endsAs hexec ((endsAs_raise h.agenda s.wk .ivShort).mono (by omega))
  · rw [if_neg hshort] at hexec ⊢
    have hiv : s.splitIv.wk.ivr.val = s.wk.work.take 16 := Bytes.ofList_val_of_le 16 _ (Nat.not_lt.mp hshort)
    have hkdfInit : EngineAt .kdfInit s.splitIv := ⟨h.agenda, rfl⟩
    have hends := hkdfInit.endsAs_kdfInit_decrypt hp hopc
    rw [hiv] at hends
    exact h.endsAs hexec (hends.endWith_congr rfl)

theorem EngineAt.endsAs_b64d {p : Config.Params} (hp : KdfIsPbkdf2 p) {s : State} (h : EngineAt .b64d s)
    (hopc : opcField s.cmdReg = 0x03#8) :
    EndsAs p 10006 s (s.endWith p ((b64Decode p s.payload).bind (decryptBuffer p s.cfg.mkey))) := by
  refine h.endsAs_bind (n := 10005) (wk := s.wk) (next := fun v => { s with wk.work := v, phase := Phase.ivsplit }) (by omega)
    (fun e he => by rw [execWith, b64dWith, he]) (fun v hv => by rw [execWith, b64dWith, hv]) fun v _ => ?_
  have hivsplit : EngineAt .ivsplit { s with wk.work := v, phase := Phase.ivsplit } := ⟨h.agenda, rfl⟩
  exact (hivsplit.endsAs_ivsplit hp hopc).endWith_congr rfl

theorem EngineAt.endsAs_dKeychk {p : Config.Params} (hp : KdfIsPbkdf2 p) {s : State} (h : EngineAt .dKeychk s)
    (hopc : opcField s.cmdReg = 0x03#8) : EndsAs p 10007 s (s.endWith p (currentDecrypt p s.cfg.mkey s.payload)) := by
  have hexec : execWith p s.nextDraw .dKeychk s =
    .next (if s.cfg.mkey.length < Config.mkeyMin then s.raise .keyTooShort else s.goTo Phase.b64d) := rfl
  rw [currentDecrypt_eq]
  by_cases hshort : s.cfg.mkey.length < Config.mkeyMin
  · rw [if_pos hshort] at hexec ⊢
    exact h.endsAs hexec ((endsAs_raise h.agenda s.wk .keyTooShort).mono (by omega))
  · rw [if_neg hshort] at hexec ⊢
    have hb64d : EngineAt .b64d (s.goTo Phase.b64d) := ⟨h.agenda, rfl⟩
    exact h.endsAs hexec ((hb64d.endsAs_b64d hp hopc).endWith_congr rfl)

/-! ### The legacy path -/

theorem EngineAt.endsAs_lCbcd {p : Config.Params} {s : State} (h : EngineAt .lCbcd s) (hopc : opcField s.cmdReg ≠ 0x01#8) :
    EndsAs p 3 s (s.endWith p ((cbcDec p.bc s.wk.lkfit (Bytes.zero 16) (s.wk.work.take s.wk.plen)).bind
      fun dec => ztrunc (dec.take s.wk.plen) s.wk.elen)) := by
  refine h.endsAs_bind (wk := { s.wk with ivr := Bytes.zero 16 })
    (next := fun v => { s with wk.ivr := Bytes.zero 16, wk.work := v, phase := Phase.lTrunc }) (by omega)
    (fun e he => by rw [execWith, lCbcdWith, he]) (fun v hv => by rw [execWith, lCbcdWith, hv]) fun v _ => ?_
  have hlTrunc : EngineAt .lTrunc { s with wk.ivr := Bytes.zero 16, wk.work := v, phase := Phase.lTrunc } := ⟨h.agenda, rfl⟩
  exact (hlTrunc.endsAs_deliver hopc rfl).endWith_congr rfl

/-- L_CBCD and L_TRUNC take the prefix again, which is all that L_SPLIT left and all that was decrypted (R284, R286). -/
theorem legacyBuffer_eq (p : Config.Params) (key buf : ByteString) :
    legacyBuffer p key buf =
      (cbcDec p.bc key (Bytes.zero 16) ((buf.take (prefixLength buf.length)).take (prefixLength buf.length))).bind
        fun dec => ztrunc (dec.take (prefixLength buf.length)) (trailerLength p buf) := by
  rw [legacyBuffer, List.take_take, Nat.min_self]
  cases hdec : cbcDec p.bc key (Bytes.zero 16) (buf.take (prefixLength buf.length)) with
  | error e => rfl
  | ok dec =>
    have hlength : dec.length ≤ prefixLength buf.length := (cbcDec_length hdec).trans_le (List.length_take_le ..)
    simp only [Except.bind, List.take_of_length_le hlength]

theorem EngineAt.endsAs_lSplit {p : Config.Params} {s : State} (h : EngineAt .lSplit s) (hopc : opcField s.cmdReg ≠ 0x01#8) :
    EndsAs p 4 s (s.endWith p (legacyBuffer p s.wk.lkfit s.wk.work)) := by
  have hlCbcd : EngineAt .lCbcd (s.splitTrailer p) := ⟨h.agenda, rfl⟩
  rw [legacyBuffer_eq]
  exact h.endsAs (u := s.splitTrailer p) rfl ((hlCbcd.endsAs_lCbcd hopc).endWith_congr rfl)

theorem EngineAt.endsAs_lB64d {p : Config.Params} {s : State} (h : EngineAt .lB64d s) (hopc : opcField s.cmdReg ≠ 0x01#8) :
    EndsAs p 5 s (s.endWith p ((b64Decode p s.input).bind (legacyBuffer p s.wk.lkfit))) := by
  refine h.endsAs_bind (wk := s.wk) (next := fun v => { s with wk.work := v, phase := Phase.lSplit }) (by omega)
    (fun e he => by rw [execWith, lB64dWith, he]) (fun v hv => by rw [execWith, lB64dWith, hv]) fun v _ => ?_
  have hlSplit : EngineAt .lSplit { s with wk.work := v, phase := Phase.lSplit } := ⟨h.agenda, rfl⟩
  exact (hlSplit.endsAs_lSplit hopc).endWith_congr rfl

theorem EngineAt.endsAs_lKeyfit {p : Config.Params} {s : State} (h : EngineAt .lKeyfit s)
    (hopc : opcField s.cmdReg ≠ 0x01#8) : EndsAs p 6 s (s.endWith p (legacyDecrypt p s.legacyKey s.input)) := by
  rw [legacyDecrypt_eq]
  refine h.endsAs_bind (wk := s.wk) (next := fun key => { s with wk.lkfit := key, phase := Phase.lB64d }) (by omega)
    (fun e he => by rw [execWith, execLKeyfit, he]) (fun v hv => by rw [execWith, execLKeyfit, hv]) fun key _ => ?_
  have hlB64d : EngineAt .lB64d { s with wk.lkfit := key, phase := Phase.lB64d } := ⟨h.agenda, rfl⟩
  exact (hlB64d.endsAs_lB64d hopc).endWith_congr rfl

/-! ### The selector (R253, R254) -/

/-- The state with the expected tag in EXPECT. -/
def State.expecting (s : State) : State := { s with wk.expected := s.tagFor (vField s.cmdReg) }

/-- The three targets of SELECT in their order. -/
def State.selected (s : State) : State :=
  if s.wk.tagr = s.tagFor (vField s.cmdReg) then { s.expecting with stPath := .current, phase := Phase.dKeychk }
  else if s.zeroVeKey.isSome then { s.expecting with stPath := .legacy, phase := Phase.lKeyfit }
  else s.expecting.raise .unsupportedVersion

theorem execSelect_eq (s : State) : execSelect s = .next s.selected := rfl

theorem State.selected_of_eq {s : State} (h : s.wk.tagr = s.tagFor (vField s.cmdReg)) :
    s.selected = { s.expecting with stPath := .current, phase := Phase.dKeychk } := if_pos h

theorem State.selected_of_some {s : State} {lk : ByteString} (h : s.wk.tagr ≠ s.tagFor (vField s.cmdReg))
    (hkey : s.zeroVeKey = some lk) : s.selected = { s.expecting with stPath := .legacy, phase := Phase.lKeyfit } := by
  rw [State.selected, if_neg h, hkey]
  rfl

theorem State.selected_of_none {s : State} (h : s.wk.tagr ≠ s.tagFor (vField s.cmdReg)) (hkey : s.zeroVeKey = none) :
    s.selected = s.expecting.raise .unsupportedVersion := by
  rw [State.selected, if_neg h, hkey]
  rfl

theorem EngineAt.endsAs_select {p : Config.Params} (hp : KdfIsPbkdf2 p) {s : State} (h : EngineAt .select s)
    (hopc : opcField s.cmdReg = 0x03#8) (htag : s.wk.tagr = s.inputTag) (hlong : 6 ≤ s.inLen.toNat)
    (hpath : s.stPath = .noBranch) : EndsAs p 10008 s (s.decrypted p (vField s.cmdReg)) := by
  have hnotConfig : opcField s.cmdReg ≠ 0x01#8 := by rw [hopc]; decide
  obtain ⟨hcurrent, hlegacy, hunsupported⟩ := decryptText_of_tag (p := p) hlong (s.tagFor (vField s.cmdReg))
  refine h.endsAs (n := 10007) (execSelect_eq s) ?_
  rw [← htag] at hcurrent hlegacy hunsupported
  by_cases hexpected : s.wk.tagr = s.tagFor (vField s.cmdReg)
  · rw [State.selected_of_eq hexpected, State.decrypted_eq (hcurrent hexpected)]
    have hdKeychk : EngineAt .dKeychk { s.expecting with stPath := .current, phase := Phase.dKeychk } := ⟨h.agenda, rfl⟩
    exact (hdKeychk.endsAs_dKeychk hp hopc).endWith_congr rfl
  cases hkey : s.zeroVeKey with
  | some lk =>
    rw [State.selected_of_some hexpected hkey, State.decrypted_eq (hlegacy hexpected lk hkey)]
    have hlKeyfit : EngineAt .lKeyfit { s.expecting with stPath := .legacy, phase := Phase.lKeyfit } := ⟨h.agenda, rfl⟩
    have hends := hlKeyfit.endsAs_lKeyfit (p := p) hnotConfig
    have hlegacyKey : State.legacyKey { s.expecting with stPath := .legacy, phase := Phase.lKeyfit } = lk :=
      State.legacyKey_of_lookup hkey
    rw [hlegacyKey] at hends
    refine EndsAs.mono (n := 6) ?_ (by omega)
    exact hends.endWith_congr rfl
  | none =>
    rw [State.selected_of_none hexpected hkey, State.decrypted_eq (hunsupported hexpected hkey), ← hpath]
    exact (endsAs_raise h.agenda s.expecting.wk .unsupportedVersion).mono (by omega)

theorem EngineAt.endsAs_tagsplit {p : Config.Params} (hp : KdfIsPbkdf2 p) {s : State} (h : EngineAt .tagsplit s)
    (hopc : opcField s.cmdReg = 0x03#8) (hpath : s.stPath = .noBranch) :
    EndsAs p 10009 s (s.decrypted p (vField s.cmdReg)) := by
  have hexec : execWith p s.nextDraw .tagsplit s = .next (if s.inLen.toNat < 6 then s.raise .tagShort else s.splitTag) := rfl
  by_cases hshort : s.inLen.toNat < 6
  · have htext : decryptText p s.cfg s.input (s.tagFor (vField s.cmdReg)) = (.noBranch, .error .tagShort) := by
      rw [decryptText, if_pos (by rwa [s.input_length])]
    rw [if_pos hshort] at hexec
    rw [State.decrypted_eq htext, ← hpath]
    exact h.endsAs hexec ((endsAs_raise h.agenda s.wk .tagShort).mono (by omega))
  · rw [if_neg hshort] at hexec
    have hselect : EngineAt .select s.splitTag := ⟨h.agenda, rfl⟩
    exact h.endsAs hexec (EndsAs.endWith_congr (hselect.endsAs_select hp hopc rfl (Nat.not_lt.mp hshort) hpath) rfl)

/-- From D_CHECK on, the phases give what DECRYPT as one transition gives (R250). -/
theorem EngineAt.endsAs_dCheck {p : Config.Params} (hp : KdfIsPbkdf2 p) {s : State} (h : EngineAt .dCheck s)
    (hopc : opcField s.cmdReg = 0x03#8) (hpath : s.stPath = .noBranch) :
    EndsAs p 10010 s (decryptCommand p (vField s.cmdReg) s) := by
  refine h.endsAs_check (n := 10009) (dCheckError p s) rfl (by omega) (fun e he => decryptCommand_of_error he) fun hnone => ?_
  rw [decryptCommand_of_none hnone]
  have htagsplit : EngineAt .tagsplit (s.goTo Phase.tagsplit) := ⟨h.agenda, rfl⟩
  exact EndsAs.endWith_congr (htagsplit.endsAs_tagsplit hp hopc hpath) rfl

/-! ### DECODE (R93) -/

theorem opcField_commandWord (opc : BitVec 8) (v : Bool) : opcField (commandWord opc v) = opc := by
  apply BitVec.eq_of_getLsbD_eq
  intro k hk
  simp [opcField, getLsbD_commandWord, hk]

theorem vField_commandWord (opc : BitVec 8) (v : Bool) : vField (commandWord opc v) = v := by
  rw [vField, getLsbD_commandWord]
  simp

/-- A word that is no command is refused by DECODE for the reason the decoder gives. -/
theorem execDecode_of_error {s : State} {r : CommandReject} (h : decodeCommand s.cmdReg = .error r) :
    execDecode s = .next (s.raise (CommandReject.cause r)) := by
  unfold decodeCommand at h
  unfold execDecode
  split_ifs at h with hopc hbits <;> cases h
  · rw [if_pos hopc]; rfl
  · rw [if_neg hopc, if_pos hbits]; rfl

/-- The checks that each legal word leads to. -/
theorem execDecode_of_commandWord {s : State} (v : Bool) :
    (s.cmdReg = commandWord 0x01#8 false → execDecode s = .next (s.goTo Phase.cCheck)) ∧
    (s.cmdReg = commandWord 0x02#8 v → execDecode s = .next (s.goTo Phase.eCheck)) ∧
    (s.cmdReg = commandWord 0x03#8 v → execDecode s = .next (s.goTo Phase.dCheck)) := by
  refine ⟨fun h => ?_, fun h => ?_, fun h => ?_⟩ <;> unfold execDecode <;> rw [h]
  · rfl
  · cases v <;> rfl
  · cases v <;> rfl

/-! ### The whole command (R72) -/

/-- `F` ends a command: it overwrites PHASE, and it neither looks at the agenda nor changes it. -/
def EndsCommand (F : State → State) : Prop :=
  ∀ s phase agenda, F { s with phase := phase, agenda := agenda } = { F s with agenda := agenda }

/-- Moving the sequencer first makes no difference to the end of a command. -/
theorem EndsCommand.goTo {F : State → State} (h : EndsCommand F) (s : State) (target : BitVec 5) : F (s.goTo target) = F s := by
  have hkept : F s = { F s with agenda := s.agenda } := h s s.phase s.agenda
  calc F (s.goTo target) = { F s with agenda := s.agenda } := h s target s.agenda
    _ = F s := hkept.symm

theorem configCommand_endsCommand (p : Config.Params) : EndsCommand (configCommand p) := by
  intro s phase agenda
  have hsame : cCheckError p { s with phase := phase, agenda := agenda } = cCheckError p s := rfl
  unfold configCommand
  rw [hsame]
  cases cCheckError p s <;> rfl

theorem encryptCommand_endsCommand (p : Config.Params) (iv : Bytes 16) (v : Bool) : EndsCommand (encryptCommand p iv v) := by
  intro s phase agenda
  have hsame : eCheckError p { s with phase := phase, agenda := agenda } = eCheckError p s := rfl
  unfold encryptCommand
  rw [hsame]
  cases eCheckError p s <;> rfl

theorem decrypted_endsCommand (p : Config.Params) (v : Bool) : EndsCommand (State.decrypted p v) := by
  intro s phase agenda
  have hsame : decryptText p s.cfg (State.input { s with phase := phase, agenda := agenda })
      (State.tagFor { s with phase := phase, agenda := agenda } v) = decryptText p s.cfg s.input (s.tagFor v) := rfl
  unfold State.decrypted
  rw [hsame]
  cases (decryptText p s.cfg s.input (s.tagFor v)).2 <;> rfl

theorem decryptCommand_endsCommand (p : Config.Params) (v : Bool) : EndsCommand (decryptCommand p v) := by
  intro s phase agenda
  have hsame : dCheckError p { s with phase := phase, agenda := agenda } = dCheckError p s := rfl
  cases hcheck : dCheckError p s with
  | some e => rw [decryptCommand_of_error hcheck, decryptCommand_of_error (hsame.trans hcheck)]; rfl
  | none => rw [decryptCommand_of_none hcheck, decryptCommand_of_none (hsame.trans hcheck), decrypted_endsCommand]

/-- The state that a whole command with the legal word of `i` makes of an idle machine: accepted, then what the instruction does. -/
def commandResult (p : Config.Params) (iv : Bytes 16) (w : Word) (s : State) : State :=
  match decodeCommand w with
  | .ok .config => configCommand p (s.accept w)
  | .ok .encrypt => encryptCommand p iv false (s.accept w)
  | .ok .encryptV => encryptCommand p iv true (s.accept w)
  | .ok .decrypt => decryptCommand p false (s.accept w)
  | .ok .decryptV => decryptCommand p true (s.accept w)
  | .ok _ => s
  | .error r => (s.accept w).endFailed (CommandReject.cause r).code

theorem commandStep_of_idle (p : Config.Params) (iv : Bytes 16) (w : Word) {s : State} (hidle : s.stBusy = false) :
    commandStep (execWith p iv) w s = .next (commandResult p iv w s) := by
  have hfree : ¬ s.stBusy = true := by simp [hidle]
  unfold commandStep commandResult
  cases hw : decodeCommand w with
  | error r => exact congrArg Host.Outcome.next (if_neg hfree)
  | ok i =>
    have hcode := encode_of_decodeCommand hw
    cases i with
    | config | encrypt | encryptV | decrypt | decryptV =>
      cases hcode
      exact congrArg Host.Outcome.next (if_neg hfree)
    | _ => cases hcode

/-- A whole command neither looks at the agenda nor changes it. -/
theorem commandResult_agenda (p : Config.Params) (iv : Bytes 16) (w : Word) (s : State) (agenda : List HostEvent) :
    commandResult p iv w { s with agenda := agenda } = { commandResult p iv w s with agenda := agenda } := by
  unfold commandResult
  cases decodeCommand w with
  | error r => rfl
  | ok i =>
    cases i with
    | config => exact configCommand_endsCommand p (s.accept w) _ agenda
    | encrypt | encryptV => exact encryptCommand_endsCommand p iv _ (s.accept w) _ agenda
    | decrypt | decryptV => exact decryptCommand_endsCommand p _ (s.accept w) _ agenda
    | _ => rfl

theorem endsAs_accept_config (p : Config.Params) {s : State} (hagenda : s.agenda = []) :
    EndsAs p 4 (s.accept (commandWord 0x01#8 false)) (configCommand p (s.accept (commandWord 0x01#8 false))) := by
  have hdecode : EngineAt .decode (s.accept (commandWord 0x01#8 false)) := ⟨hagenda, rfl⟩
  have hcheck : EngineAt .cCheck ((s.accept (commandWord 0x01#8 false)).goTo Phase.cCheck) := ⟨hagenda, rfl⟩
  obtain ⟨hexec, -, -⟩ := execDecode_of_commandWord (s := s.accept (commandWord 0x01#8 false)) false
  have hends := hcheck.endsAs_cCheck (p := p) (opcField_commandWord ..)
  rw [(configCommand_endsCommand p).goTo] at hends
  exact hdecode.endsAs (hexec rfl) hends

theorem endsAs_accept_encrypt {p : Config.Params} (hp : KdfIsPbkdf2 p) {s : State} (hagenda : s.agenda = []) (v : Bool) :
    EndsAs p 10009 (s.accept (commandWord 0x02#8 v))
      (encryptCommand p s.nextDraw v (s.accept (commandWord 0x02#8 v))) := by
  have hdecode : EngineAt .decode (s.accept (commandWord 0x02#8 v)) := ⟨hagenda, rfl⟩
  have hcheck : EngineAt .eCheck ((s.accept (commandWord 0x02#8 v)).goTo Phase.eCheck) := ⟨hagenda, rfl⟩
  obtain ⟨-, hexec, -⟩ := execDecode_of_commandWord (s := s.accept (commandWord 0x02#8 v)) v
  have hends := hcheck.endsAs_eCheck hp (opcField_commandWord ..)
  rw [(encryptCommand_endsCommand p _ _).goTo, State.goTo_cmdReg, State.accept_cmdReg, vField_commandWord] at hends
  exact hdecode.endsAs (hexec rfl) hends

theorem endsAs_accept_decrypt {p : Config.Params} (hp : KdfIsPbkdf2 p) {s : State} (hagenda : s.agenda = []) (v : Bool) :
    EndsAs p 10011 (s.accept (commandWord 0x03#8 v)) (decryptCommand p v (s.accept (commandWord 0x03#8 v))) := by
  have hdecode : EngineAt .decode (s.accept (commandWord 0x03#8 v)) := ⟨hagenda, rfl⟩
  have hcheck : EngineAt .dCheck ((s.accept (commandWord 0x03#8 v)).goTo Phase.dCheck) := ⟨hagenda, rfl⟩
  obtain ⟨-, -, hexec⟩ := execDecode_of_commandWord (s := s.accept (commandWord 0x03#8 v)) v
  have hends := hcheck.endsAs_dCheck hp (opcField_commandWord ..) rfl
  rw [(decryptCommand_endsCommand p _).goTo, State.goTo_cmdReg, State.accept_cmdReg, vField_commandWord] at hends
  exact hdecode.endsAs (hexec rfl) hends

/-- From DECODE on, the phases give what the command as one transition gives, whatever the word. -/
theorem endsAs_accept {p : Config.Params} (hp : KdfIsPbkdf2 p) {s : State} (hagenda : s.agenda = []) (w : Word) :
    EndsAs p 10011 (s.accept w) (commandResult p s.nextDraw w s) := by
  unfold commandResult
  cases hw : decodeCommand w with
  | error r =>
    have hdecode : EngineAt .decode (s.accept w) := ⟨hagenda, rfl⟩
    have hends := hdecode.endsAs (execDecode_of_error hw) 
      (endsAs_raise (p := p) (s := s.accept w) hagenda s.wk (CommandReject.cause r))
    exact hends.mono (by omega)
  | ok i =>
    have hcode := encode_of_decodeCommand hw
    cases i with
    | config => cases hcode; exact (endsAs_accept_config p hagenda).mono (by omega)
    | encrypt | encryptV => cases hcode; exact (endsAs_accept_encrypt hp hagenda _).mono (by omega)
    | decrypt | decryptV => cases hcode; exact endsAs_accept_decrypt hp hagenda _
    | _ => cases hcode

/-- R19 and R72 under any parameters: the phases after a CMD write, and the step that carries out the whole command. -/
theorem phases_implement_command {p : Config.Params} (hp : KdfIsPbkdf2 p) {s : State} (w : Word) (hidle : s.stBusy = false)
    (hagenda : s.agenda = []) :
    ∃ t u, (coreWith p).run 10011 (hostWriteReg p s 0 w) = .next t ∧
      stepWith p s.nextDraw { s with agenda := [.command w none] } = .next u ∧ t.withoutWork = u.withoutWork := by
  obtain ⟨t, hrun, hend, ht⟩ := endsAs_accept hp hagenda w
  have hwrite : hostWriteReg p s 0 w = s.accept w := by
    rw [hostWriteReg, if_neg (by simp [hidle])]
    rfl
  have hstep : stepWith p s.nextDraw { s with agenda := [.command w none] } =
      .next { commandResult p s.nextDraw w s with agenda := [] } := by
    show consume (commandStep (execWith p s.nextDraw) w { s with agenda := [.command w none] }) = _
    rw [commandStep_of_idle p s.nextDraw w (s := { s with agenda := [.command w none] }) hidle, commandResult_agenda]
    rfl
  have hkept : (commandResult p s.nextDraw w s).agenda = [] := by
    have hempty : { s with agenda := [] } = s := by rw [← hagenda]
    have hresult := commandResult_agenda p s.nextDraw w s []
    rw [hempty] at hresult
    rw [hresult]
  refine ⟨t, _, by rw [hwrite]; exact hrun, hstep, ht.trans ?_⟩
  rw [← hkept]

/-- Settles O60: the machine handed to the host is the machine of all parameters at the defaults, whose key derivation is PBKDF2. -/
theorem phasesImplementTheCommands : Obligations.PhasesImplementTheCommands := by
  refine ⟨fun s w hidle hagenda => ?_, fun p s w hp hidle hagenda => phases_implement_command hp w hidle hagenda⟩
  obtain ⟨t, u, hrun, hstep, hsame⟩ := phases_implement_command params_kdfIsPbkdf2 w hidle hagenda
  refine ⟨t, u, (core_run_eq ..).trans hrun, ?_, hsame⟩
  have hdraw : State.nextDraw { s with agenda := [.command w none] } = s.nextDraw := by
    simp [State.nextDraw, hagenda, HostEvent.answer]
  rw [step_eq_stepWith, hdraw, hstep]

end Sys2Proof.Machine
end

section
/-!
SUPPORT. What a step does with each event of the agenda (log 2), and the statements O3, O4, O5, O6, O7, O8 and O53.
-/

namespace Sys2Proof.Machine

/-! ### The meaning of an instruction keeps the agenda -/

theorem PhaseCase.agenda {s t : State} {i : Instr} (h : PhaseCase s i t) : t.agenda = s.agenda := by
  cases h with
  | goesOn _ _ _ hgoes => rw [hgoes.frame]
  | waits | finishes | fails => rfl

theorem CommandCase.agenda {s t : State} {w : Word} (h : CommandCase s w t) : t.agenda = s.agenda := by
  cases h <;> rfl

/-- No instruction changes the agenda: it is the step that takes the event off. -/
theorem exec_agenda {i : Instr} {s t : State} (h : exec i s = .next t) : t.agenda = s.agenda := by
  cases hcode : encode i with
  | command w => exact (commandCase_of_exec hcode h).agenda
  | phase c => exact (phaseCase_of_exec hcode h).agenda

/-! ### A step by its event -/

theorem step_of_event {s : State} {e : HostEvent} {rest : List HostEvent} (hagenda : s.agenda = e :: rest) :
    step s = consume (eventStep params exec e s) := by
  simp only [step, agendaStep, hagenda]

/-- The event of the step is carried out, and leaves the agenda. -/
theorem step_of_eventStep {s t : State} {e : HostEvent} {rest : List HostEvent} (hagenda : s.agenda = e :: rest)
    (hevent : eventStep params exec e s = .next t) (hkept : t.agenda = s.agenda) :
    step s = .next { t with agenda := rest } := by
  rw [step_of_event hagenda, hevent, consume, hkept, hagenda]
  rfl

theorem step_of_engineEvent {s t : State} {i : Instr} {a : Option (Bytes 16)} {rest : List HostEvent}
    (hagenda : s.agenda = .engine a :: rest) (hphase : decodePhase s.phase = some i) (h : exec i s = .next t) :
    step s = .next { t with agenda := rest } := by
  refine step_of_eventStep hagenda ?_ (exec_agenda h)
  simp only [eventStep, engineStep, hphase, h]

theorem step_of_command {s t : State} {i : Instr} {w : Word} {a : Option (Bytes 16)} {rest : List HostEvent}
    (hagenda : s.agenda = .command w a :: rest) (hw : decodeCommand w = .ok i) (h : exec i s = .next t) :
    step s = .next { t with agenda := rest } := by
  refine step_of_eventStep hagenda ?_ (exec_agenda h)
  simp only [eventStep, commandStep, hw, h]

theorem step_of_illegalCommand {s : State} {r : CommandReject} {w : Word} {a : Option (Bytes 16)} {rest : List HostEvent}
    (hagenda : s.agenda = .command w a :: rest) (hw : decodeCommand w = .error r) :
    step s = .next { illegalCommand s w r with agenda := rest } := by
  refine step_of_eventStep hagenda ?_ (illegalCommand_commandCase s w r).agenda
  simp only [eventStep, commandStep, hw]

theorem step_of_readReg {s : State} {n : Nat} {rest : List HostEvent} (hagenda : s.agenda = .readReg n :: rest) :
    step s = .next { s with agenda := rest, hostData := hostReadReg params s n } :=
  step_of_eventStep hagenda rfl rfl

theorem step_of_readBuf {s : State} {space off : Nat} {rest : List HostEvent} (hagenda : s.agenda = .readBuf space off :: rest) :
    step s = .next { s with agenda := rest, hostData := (hostReadBuf params s space off).setWidth 32 } :=
  step_of_eventStep hagenda rfl rfl

@[simp] theorem hostWriteReg_agenda (p : Config.Params) (s : State) (n : Nat) (v : Word) :
    (hostWriteReg p s n v).agenda = s.agenda := by
  obtain h | ⟨-, -, h⟩ | ⟨-, _, _, _, _, h⟩ | ⟨-, _, _, _, h⟩ := hostWriteReg_cases p s n v <;> rw [h] <;> rfl

@[simp] theorem hostWriteBuf_agenda (p : Config.Params) (s : State) (space off : Nat) (b : Byte) :
    (hostWriteBuf p s space off b).agenda = s.agenda := by
  obtain h | ⟨-, ⟨-, h⟩ | ⟨-, h⟩ | ⟨-, h⟩ | ⟨-, h⟩ | ⟨-, _, h⟩ | ⟨-, _, h⟩⟩ := hostWriteBuf_cases p s space off b <;>
    rw [h] <;> rfl

theorem step_of_writeReg {s : State} {n : Nat} {v : Word} {rest : List HostEvent} (hagenda : s.agenda = .writeReg n v :: rest) :
    step s = .next { hostWriteReg params s n v with agenda := rest } :=
  step_of_eventStep hagenda rfl (hostWriteReg_agenda ..)

theorem step_of_writeBuf {s : State} {space off : Nat} {b : Byte} {rest : List HostEvent}
    (hagenda : s.agenda = .writeBuf space off b :: rest) :
    step s = .next { hostWriteBuf params s space off b with agenda := rest } :=
  step_of_eventStep hagenda rfl (hostWriteBuf_agenda ..)

/-- The reads of a result take the place of the event that asks for them (R105). -/
theorem step_of_readResult {s : State} {rest : List HostEvent} (hagenda : s.agenda = .readResult :: rest) :
    step s = .next { s with agenda := resultReads s.hostData.toNat ++ rest } := by
  rw [step_of_event hagenda, eventStep, hagenda]
  rfl

theorem step_of_reset {s : State} {rest : List HostEvent} (hagenda : s.agenda = .reset :: rest) :
    step s = .next { s.afterReset params with agenda := rest } :=
  step_of_eventStep hagenda rfl rfl

/-- Settles O3: one lemma for each kind of event. -/
theorem stepRunsTheDecodedInstruction : Obligations.StepRunsTheDecodedInstruction := fun _ _ _ =>
  ⟨step_of_engine, fun _ hagenda hphase _ h => ⟨exec_agenda h, step_of_engineEvent hagenda hphase h⟩,
    fun _ _ hagenda hw _ h => ⟨exec_agenda h, step_of_command hagenda hw h⟩, fun _ => step_of_readReg,
    fun _ _ => step_of_writeReg, fun _ _ => step_of_readBuf, fun _ _ _ => step_of_writeBuf, step_of_readResult⟩

/-! ### The one stop (log 11) -/

/-- Every instruction answers a next state: no meaning ends in a stop. -/
theorem exists_exec (i : Instr) (s : State) : ∃ t, exec i s = .next t := by cases i <;> exact ⟨_, rfl⟩

theorem exists_commandStep (w : Word) (s : State) : ∃ t, commandStep exec w s = .next t := by
  unfold commandStep
  split
  · exact exists_exec ..
  · exact ⟨_, rfl⟩

/-- The codes 28 to 31 stand for no micro-operation (R96). -/
theorem decodePhase_eq_none_iff (c : BitVec 5) : decodePhase c = none ↔ 28 ≤ c.toNat := by
  have all_codes : ∀ c : BitVec 5, decodePhase c = none ↔ 28 ≤ c.toNat := by decide
  exact all_codes c

/-- The engine's turn goes on, or stands at a reserved code and stops. -/
theorem engineStep_total (s : State) :
    (s.phase.toNat < 28 ∧ ∃ t, engineStep exec s = .next t) ∨ (28 ≤ s.phase.toNat ∧ engineStep exec s = .fault .reservedPhase) := by
  unfold engineStep
  cases hphase : decodePhase s.phase with
  | some i =>
    have hassigned : ¬ 28 ≤ s.phase.toNat := by rw [← decodePhase_eq_none_iff, hphase]; nofun
    exact .inl ⟨by omega, exists_exec i s⟩
  | none => exact .inr ⟨(decodePhase_eq_none_iff _).mp hphase, rfl⟩

/-- A step is the engine's turn, which may stop, or another event, which never does. -/
theorem step_total (s : State) :
    (EngineTurn s ∧ 28 ≤ s.phase.toNat ∧ step s = .fault .reservedPhase) ∨
    (¬ (EngineTurn s ∧ 28 ≤ s.phase.toNat) ∧ ∃ t, step s = .next t) := by
  have hconsume (t : State) : ∃ u, consume (.next t) = .next u := ⟨_, rfl⟩
  cases hagenda : s.agenda with
  | nil =>
    have hstep : step s = engineStep exec s := by simp only [step, agendaStep, hagenda]
    obtain ⟨hassigned, t, ht⟩ | ⟨hreserved, hfault⟩ := engineStep_total s
    · exact .inr ⟨fun ⟨_, h⟩ => by omega, t, hstep.trans ht⟩
    · exact .inl ⟨.inl hagenda, hreserved, hstep.trans hfault⟩
  | cons e rest =>
    have hstep := step_of_event hagenda
    cases e with
    | engine a =>
      rw [eventStep] at hstep
      obtain ⟨hassigned, t, ht⟩ | ⟨hreserved, hfault⟩ := engineStep_total s
      · exact .inr ⟨fun ⟨_, h⟩ => by omega, by rw [hstep, ht]; exact hconsume t⟩
      · exact .inl ⟨.inr ⟨a, by rw [hagenda]; rfl⟩, hreserved, by rw [hstep, hfault]; rfl⟩
    | command w a =>
      obtain ⟨t, ht⟩ := exists_commandStep w s
      rw [eventStep, ht] at hstep
      exact .inr ⟨fun ⟨h, _⟩ => by simp [EngineTurn, hagenda] at h, by rw [hstep]; exact hconsume t⟩
    | readReg | writeReg | readBuf | writeBuf | readResult | reset =>
      exact .inr ⟨fun ⟨h, _⟩ => by simp [EngineTurn, hagenda] at h, by rw [hstep]; exact hconsume _⟩

/-- Settles O4: the cases of `step_total` exclude each other. -/
theorem onlyReservedPhasesStop : Obligations.OnlyReservedPhasesStop := by
  refine ⟨exists_exec, fun s hassigned => ?_, fun s => ?_, fun s r hrefused => ?_⟩ <;>
    obtain ⟨hturn, hreserved, hfault⟩ | ⟨hnot, t, ht⟩ := step_total s
  · omega
  · exact ⟨t, ht⟩
  · exact ⟨fun _ => ⟨hturn, hreserved⟩, fun _ => ⟨_, hfault⟩⟩
  · refine ⟨fun ⟨f, hf⟩ => ?_, fun h => absurd h hnot⟩
    rw [ht] at hf
    cases hf
  · rw [hfault] at hrefused
    cases hrefused
  · rw [ht] at hrefused
    cases hrefused

/-! ### The host's accesses and a command's word -/

/-- Settles O5: the write is `State.accept` unless a command runs. -/
theorem cmdWriteStartsACommand : Obligations.CmdWriteStartsACommand := by
  intro s w rest hagenda
  have hstep := step_of_writeReg hagenda
  by_cases hbusy : s.stBusy = true
  · rw [hostWriteReg_busy _ _ _ _ hbusy] at hstep
    exact ⟨_, hstep, SameBytes.refl s, fun _ => rfl, fun hidle => by rw [hidle] at hbusy; cases hbusy⟩
  · have haccept : hostWriteReg params s 0 w = s.accept w := if_neg hbusy
    rw [haccept] at hstep
    exact ⟨_, hstep, SameBytes.refl s, fun h => absurd h hbusy, fun _ => rfl⟩

/-- The reason why a word is no command, read off its number (R93). -/
theorem decodeCommand_badOpc {w : Word} (h : ¬ (w.toNat % 256 = 1 ∨ w.toNat % 256 = 2 ∨ w.toNat % 256 = 3)) :
    decodeCommand w = .error .badOpc := if_pos ((badOpc_iff w).mpr h)

theorem decodeCommand_badBits {w : Word} (hopc : w.toNat % 256 = 1 ∨ w.toNat % 256 = 2 ∨ w.toNat % 256 = 3)
    (h : 512 ≤ w.toNat ∨ (w.toNat % 256 = 1 ∧ w.toNat / 256 % 2 = 1)) : decodeCommand w = .error .badBits := by
  rw [decodeCommand, if_neg (mt (badOpc_iff w).mp (not_not.mpr hopc)), if_pos ((badBits_iff w).mpr h)]

/-- On an idle machine an illegal word is accepted and then refused (R72, R93). -/
theorem illegalCommand_endedFailed {s : State} (hidle : s.stBusy = false) (w : Word) (r : CommandReject) :
    EndedFailed s w .noBranch (CommandReject.cause r).code (illegalCommand s w r) := by
  rw [illegalCommand, if_neg (by simp [hidle])]
  exact State.accept_endFailed s w .noBranch _

/-- Settles O6. -/
theorem illegalCommandEndsInError : Obligations.IllegalCommandEndsInError := by
  intro s w a rest hagenda hidle
  exact ⟨fun hopc => ⟨_, step_of_illegalCommand hagenda (decodeCommand_badOpc hopc),
      illegalCommand_endedFailed hidle w .badOpc⟩,
    fun hopc hbits => ⟨_, step_of_illegalCommand hagenda (decodeCommand_badBits hopc hbits),
      illegalCommand_endedFailed hidle w .badBits⟩⟩

/-! ### STATUS (R28) -/

theorem append_toNat {m n : Nat} (x : BitVec m) (y : BitVec n) : (x ++ y).toNat = x.toNat * 2 ^ n + y.toNat := by
  rw [BitVec.toNat_append, ← Nat.shiftLeft_add_eq_or_of_lt y.isLt, Nat.shiftLeft_eq]

/-- PATH as a number (R28). -/
theorem Path.code_toNat (path : Path) :
    path.code.toNat = match path with | .noBranch => 0 | .current => 1 | .legacy => 2 := by cases path <;> rfl

theorem ite_eq_mul_toNat (b : Bool) (n : Nat) : (if b = true then n else 0) = n * b.toNat := by cases b <;> simp

/-- STATUS as a number, each flag as 0 or 1 (R28). -/
theorem status_toNat (s : State) :
    s.status.toNat = s.stBusy.toNat + 2 * s.stDone.toNat + 4 * s.stErr.toNat + 8 * s.cfg.valid.toNat +
      16 * s.stPath.code.toNat + 256 * s.phase.toNat := by
  simp only [State.status, append_toNat, BitVec.toNat_ofBool, BitVec.toNat_ofNat]
  omega

/-- Settles O9. -/
theorem statusBitsStandWhereTheSpecPutsThem : Obligations.StatusBitsStandWhereTheSpecPutsThem := by
  intro s
  rw [status_toNat, Path.code_toNat]
  simp only [ite_eq_mul_toNat, Nat.one_mul] <;> rfl

/-! ### While a command runs (R380) -/

theorem status_of_busy {s : State} (hbusy : s.stBusy = true) :
    s.status.toNat % 2 = 1 ∧ (s.stDone = false → s.status.toNat / 2 % 2 = 0) := by
  rw [status_toNat, hbusy, Bool.toNat_true]
  refine ⟨by omega, fun hdone => ?_⟩
  rw [hdone, Bool.toNat_false]
  omega

/-- A whole command is ignored while another runs (R72; log 16). -/
theorem commandStep_of_busy {s : State} (hbusy : s.stBusy = true) (w : Word) : commandStep exec w s = .next s := by
  obtain ⟨t, ht⟩ := exists_commandStep w s
  rw [ht]
  cases commandStep_cases ht with
  | ignored => rfl
  | failed _ _ hidle | ended _ _ _ _ hidle => rw [hbusy] at hidle; cases hidle

/-- Settles O7. -/
theorem busyEngineIgnoresTheHost : Obligations.BusyEngineIgnoresTheHost := by
  intro s rest hbusy
  obtain ⟨hbusyBit, hdoneBit⟩ := status_of_busy hbusy
  refine ⟨fun n v hagenda => ?_, fun space off b hagenda => ?_, fun w a hagenda => ?_, fun n hn hagenda => ?_,
    fun space off hagenda => ?_, fun hagenda => ?_, hbusyBit, fun hcoherent => ?_⟩
  · rw [step_of_writeReg hagenda, hostWriteReg_busy _ _ _ _ hbusy]
  · rw [step_of_writeBuf hagenda, hostWriteBuf_busy _ _ _ _ _ hbusy]
  · exact step_of_eventStep hagenda (commandStep_of_busy hbusy w) rfl
  · rw [step_of_readReg hagenda, hostReadReg_busy _ _ _ hbusy hn]
  · rw [step_of_readBuf hagenda, hostReadBuf_busy _ _ _ _ hbusy]
    rfl
  · rw [step_of_readReg hagenda, hostReadReg, if_neg (by simp)]
    rfl
  · exact hdoneBit (by simpa [hbusy] using hcoherent.notBoth)

/-! ### Reads (R69) -/

/-- What a read leaves of the QFVC: only the host's own data and the agenda change. -/
theorem step_of_read {s : State} {e : HostEvent} (hread : (∃ n, e = .readReg n) ∨ ∃ space off, e = .readBuf space off) :
    ∃ value, ∀ agenda data rest, agenda = e :: rest →
      step { s with agenda := agenda, hostData := data } = .next { s with agenda := rest, hostData := value } := by
  obtain ⟨n, rfl⟩ | ⟨space, off, rfl⟩ := hread
  · exact ⟨hostReadReg params s n, fun agenda data rest h =>
      step_of_readReg (s := { s with agenda := agenda, hostData := data }) h⟩
  · exact ⟨(hostReadBuf params s space off).setWidth 32, fun agenda data rest h =>
      step_of_readBuf (s := { s with agenda := agenda, hostData := data }) h⟩

/-- Settles O8: the value read depends on what a read leaves alone. -/
theorem readsHaveNoSideEffect : Obligations.ReadsHaveNoSideEffect := by
  intro s e rest hread hagenda
  obtain ⟨value, hstep⟩ := step_of_read (s := s) hread
  exact ⟨_, _, hstep s.agenda s.hostData (e :: rest) hagenda, hstep (e :: rest) value rest rfl, rfl, rfl, SameBytes.refl s⟩

/-! ### Draws (R45) -/

/-- A whole command draws once at most, and only as an accepted ENCRYPT whose entry checks pass. -/
def DrawsOnce (i : Instr) (s t : State) : Prop :=
  t.draws = s.draws ∨ (t.draws = s.draws + 1 ∧
    (i = .rng ∨ ((i = .encrypt ∨ i = .encryptV) ∧ s.stBusy = false ∧ eCheckError params s = none)))

theorem configCommand_draws (p : Config.Params) (s : State) : (configCommand p s).draws = s.draws := by
  unfold configCommand
  split <;> rfl

theorem decryptCommand_draws (p : Config.Params) (v : Bool) (s : State) : (decryptCommand p v s).draws = s.draws := by
  cases hcheck : dCheckError p s with
  | some e => rw [decryptCommand_of_error hcheck]; rfl
  | none =>
    rw [decryptCommand_of_none hcheck, State.decrypted]
    cases (decryptText p s.cfg s.input (s.tagFor v)).2 <;> rfl

theorem encryptCommand_draws (p : Config.Params) (iv : Bytes 16) (v : Bool) (s : State) :
    (encryptCommand p iv v s).draws = s.draws ∨
      ((encryptCommand p iv v s).draws = s.draws + 1 ∧ eCheckError p s = none) := by
  unfold encryptCommand
  split
  · exact .inl rfl
  · exact .inr ⟨rfl, ‹_›⟩

theorem exec_draws {i : Instr} {s t : State} (h : exec i s = .next t) : DrawsOnce i s t := by
  cases i with
  | rng => cases h; exact .inr ⟨rfl, .inl rfl⟩
  | config =>
    cases h
    dsimp only [DrawsOnce]
    split_ifs
    · exact .inl rfl
    · exact .inl (configCommand_draws ..)
  | decrypt | decryptV =>
    cases h
    dsimp only [DrawsOnce]
    split_ifs
    · exact .inl rfl
    · exact .inl (decryptCommand_draws ..)
  | encrypt | encryptV =>
    cases h
    dsimp only [DrawsOnce]
    split_ifs with hbusy
    · exact .inl rfl
    · obtain hsame | ⟨hdraw, hcheck⟩ := encryptCommand_draws params s.nextDraw _ (s.accept _)
      · exact .inl hsame
      · exact .inr ⟨hdraw, .inr ⟨by simp, by simpa using hbusy, hcheck⟩⟩
  | idle | kdfInit | kdfIter | kdfDone | pad | cbce | b64e | tagput | lSplit | finish | fail | cCommit =>
    cases h; exact .inl rfl
  | decode =>
    injection h with h
    split_ifs at h <;> subst h <;> exact .inl rfl
  | select =>
    injection h with h
    dsimp only at h
    split_ifs at h <;> subst h <;> exact .inl rfl
  | cCheck | eCheck | dCheck | tagsplit | dKeychk | b64d | ivsplit | cbcd | unpad | lKeyfit | lB64d | lCbcd | lTrunc =>
    injection h with h
    split at h <;> subst h <;> exact .inl rfl

/-- The engine draws in phase RNG alone (R232). -/
theorem engineStep_draws {s t : State} (h : engineStep exec s = .next t) :
    t.draws = s.draws ∨ (t.draws = s.draws + 1 ∧ s.phase = 5#5) := by
  obtain ⟨i, hcode, hexec, -⟩ := engineStep_cases h
  refine (exec_draws hexec).imp_right fun ⟨hdraws, hi⟩ => ⟨hdraws, ?_⟩
  obtain rfl | ⟨rfl | rfl, -⟩ := hi
  · injection hcode with hphase
    exact hphase.symm
  · cases hcode
  · cases hcode

/-- A whole command draws only as ENCRYPT or ENCRYPT.V, when it is accepted and its entry checks pass (R230, R231). -/
theorem commandStep_draws {w : Word} {s t : State} (h : commandStep exec w s = .next t) :
    t.draws = s.draws ∨ (t.draws = s.draws + 1 ∧ (w = 0x00000002#32 ∨ w = 0x00000102#32) ∧ s.stBusy = false ∧
      s.inLen.toNat ≤ params.inMax ∧ s.cfg.valid = true ∧ 32 ≤ s.cfg.mkey.length) := by
  obtain ⟨i, hi, hexec⟩ | ⟨r, -, rfl⟩ := (commandStep_next_iff ..).mp h
  · have hcode := encode_of_decodeCommand hi
    refine (exec_draws hexec).imp_right fun ⟨hdraws, hi⟩ => ?_
    obtain rfl | ⟨hform, hidle, hchecks⟩ := hi
    · cases hcode
    · refine ⟨hdraws, ?_, hidle, (eCheckError_eq_none_iff ..).mp hchecks⟩
      obtain rfl | rfl := hform <;> injection hcode with hw
      · exact .inl hw.symm
      · exact .inr hw.symm
  · unfold illegalCommand
    split <;> exact .inl rfl

@[simp] theorem hostWriteReg_draws (p : Config.Params) (s : State) (n : Nat) (v : Word) :
    (hostWriteReg p s n v).draws = s.draws := by
  obtain h | ⟨-, -, h⟩ | ⟨-, _, _, _, _, h⟩ | ⟨-, _, _, _, h⟩ := hostWriteReg_cases p s n v <;> rw [h] <;> rfl

@[simp] theorem hostWriteBuf_draws (p : Config.Params) (s : State) (space off : Nat) (b : Byte) :
    (hostWriteBuf p s space off b).draws = s.draws := by
  obtain h | ⟨-, ⟨-, h⟩ | ⟨-, h⟩ | ⟨-, h⟩ | ⟨-, h⟩ | ⟨-, _, h⟩ | ⟨-, _, h⟩⟩ := hostWriteBuf_cases p s space off b <;>
    rw [h] <;> rfl

/-- The steps that draw. -/
theorem step_draws {s t : State} (hstep : step s = .next t) (hdrew : t.draws ≠ s.draws) :
    t.draws = s.draws + 1 ∧
    ((EngineTurn s ∧ s.phase = 5#5) ∨
      ((CommandTurn s 0x00000002#32 ∨ CommandTurn s 0x00000102#32) ∧
        s.inLen.toNat ≤ params.inMax ∧ s.cfg.valid = true ∧ 32 ≤ s.cfg.mkey.length)) := by
  obtain ⟨hempty, hengine⟩ | ⟨e, rest, u, hagenda, hevent, rfl⟩ := step_cases s t hstep
  · obtain ⟨hdraws, hphase⟩ := (engineStep_draws hengine).resolve_left hdrew
    exact ⟨hdraws, .inl ⟨.inl hempty, hphase⟩⟩
  · have hhead : s.agenda.head? = some e := by rw [hagenda]; rfl
    cases eventStep_cases _ _ _ _ _ hevent with
    | engine a _ hrun =>
      obtain ⟨hdraws, hphase⟩ := (engineStep_draws hrun).resolve_left hdrew
      exact ⟨hdraws, .inl ⟨.inr ⟨a, hhead⟩, hphase⟩⟩
    | command w a _ hrun =>
      obtain ⟨hdraws, hword, hidle, hchecks⟩ := (commandStep_draws hrun).resolve_left hdrew
      refine ⟨hdraws, .inr ⟨?_, hchecks⟩⟩
      obtain rfl | rfl := hword
      · exact .inl ⟨⟨a, hhead⟩, hidle⟩
      · exact .inr ⟨⟨a, hhead⟩, hidle⟩
    | writeReg n v => exact absurd (hostWriteReg_draws params s n v) hdrew
    | writeBuf space off b => exact absurd (hostWriteBuf_draws params s space off b) hdrew
    | readReg | readBuf | readResult | reset => exact absurd rfl hdrew

/-- Settles O53: only RNG, ENCRYPT and ENCRYPT.V are given the answer of the random source. -/
theorem drawsOnlyForEncrypt : Obligations.DrawsOnlyForEncrypt := by
  refine ⟨fun s t => step_draws, fun p iv iv' i s hrng hencrypt hencryptV => ?_⟩
  cases i with
  | rng => exact absurd rfl hrng
  | encrypt => exact absurd rfl hencrypt
  | encryptV => exact absurd rfl hencryptV
  | _ => rfl

end Sys2Proof.Machine
end

section
/-!
SUPPORT. What the host reads and writes by register number and by space (R27, R31, R63), and the statements O10, O11, O12 and O13.
-/

namespace Sys2Proof.Machine

/-! ### Registers -/

theorem hostReadReg_of_idle {p : Config.Params} {s : State} (h : s.stBusy = false) (n : Nat) :
    hostReadReg p s n = readRegister p s n := if_neg (by simp [h])

theorem hostWriteReg_of_idle {p : Config.Params} {s : State} (h : s.stBusy = false) (n : Nat) (v : Word) :
    hostWriteReg p s n v = writeRegister p s n v := if_neg (by simp [h])

/-- `t` has the registers of `s`: what the host can read by number is the same. -/
structure SameRegisters (s t : State) : Prop where
  busy : t.stBusy = s.stBusy
  status : t.status = s.status
  errCode : t.errCode = s.errCode
  inLen : t.inLen = s.inLen
  outLen : t.outLen = s.outLen
  sCurTagLen : t.sCurTagLen = s.sCurTagLen
  sMkeyLen : t.sMkeyLen = s.sMkeyLen
  sNleg : t.sNleg = s.sNleg
  slots : ∀ i, (t.slot i).tagLen = (s.slot i).tagLen ∧ (t.slot i).keyLen = (s.slot i).keyLen

theorem SameRegisters.hostReadReg_eq {s t : State} (h : SameRegisters s t) (p : Config.Params) (n : Nat) :
    hostReadReg p t n = hostReadReg p s n := by
  obtain ⟨hslot, hslot'⟩ := h.slots ((n - 16) / 2)
  simp only [hostReadReg, readRegister, h.busy, h.status, h.errCode, h.inLen, h.outLen, h.sCurTagLen, h.sMkeyLen, h.sNleg,
    hslot, hslot']

/-- The lengths of a slot are told by the lists of lengths. -/
theorem slot_lengths_congr {s t : State}
    (h : t.staged.map (fun e => (e.tagLen, e.keyLen)) = s.staged.map (fun e => (e.tagLen, e.keyLen))) (i : Nat) :
    (t.slot i).tagLen = (s.slot i).tagLen ∧ (t.slot i).keyLen = (s.slot i).keyLen := by
  have hlengths (s : State) : (s.staged.map (fun e => (e.tagLen, e.keyLen))).getD i (0#8, 0#16) =
      ((s.slot i).tagLen, (s.slot i).keyLen) :=
    List.getD_map (d := StagedEntry.reset) (f := fun e => (e.tagLen, e.keyLen)) ..
  have hpair := hlengths t
  rw [h, hlengths s] at hpair
  exact ⟨congrArg Prod.fst hpair.symm, congrArg Prod.snd hpair.symm⟩

/-- Settles O12: STATUS shows CFG_VALID alone of the Config, and the readable spaces are none of the staging area. -/
theorem secretsAreNotReadable : Obligations.SecretsAreNotReadable := by
  intro s cfg wk agenda draws tagBytes keyBytes slots hvalid hslots
  have hregisters : SameRegisters s
      { s with cfg := cfg, wk := wk, agenda := agenda, draws := draws, sCurTag := tagBytes, sMkey := keyBytes, staged := slots } :=
    ⟨rfl, by simp only [State.status, hvalid], rfl, rfl, rfl, rfl, rfl, rfl, slot_lengths_congr hslots⟩
  exact ⟨hregisters.hostReadReg_eq params, fun _ _ => rfl⟩

theorem readRegister_reserved (s : State) {n : Nat} (h : n = 0 ∨ (8 ≤ n ∧ n < 16) ∨ 32 ≤ n) :
    readRegister params s n = 0#32 := by
  unfold readRegister
  rw [params_nlegMax]
  iterate 8 rw [if_neg (by omega)]

theorem writeRegister_readOnly (s : State) (v : Word) {n : Nat} (h : n = 1 ∨ n = 2 ∨ n = 4 ∨ (8 ≤ n ∧ n < 16) ∨ 32 ≤ n) :
    writeRegister params s n v = s := by
  unfold writeRegister
  rw [params_nlegMax]
  iterate 6 rw [if_neg (by omega)]

/-- Only CMD starts a command (R72). -/
theorem writeRegister_stBusy (p : Config.Params) (s : State) {n : Nat} (v : Word) (h : n ≠ 0) :
    (writeRegister p s n v).stBusy = s.stBusy := by
  unfold writeRegister
  rw [if_neg h]
  split_ifs <;> rfl

/-- What the write of one length of a slot leaves in the slots (R27). -/
theorem setSlot_frame {s : State} {i : Nat} (h : i < s.staged.length) (f : StagedEntry → StagedEntry) :
    s.setSlot i f = { s with staged := (s.setSlot i f).staged } ∧ (s.setSlot i f).staged.length = s.staged.length ∧
      ∀ j, (s.setSlot i f).slot j = if j = i then f (s.slot i) else s.slot j := by
  refine ⟨rfl, s.staged_setSlot_length i f, fun j => ?_⟩
  rw [State.slot_setSlot]
  simp only [h, and_true]

/-- A change of a slot's lengths changes no byte. -/
theorem sameBytes_setSlot (s : State) (i : Nat) {f : StagedEntry → StagedEntry}
    (hf : ∀ e, (f e).tag = e.tag ∧ (f e).key = e.key) : SameBytes s (s.setSlot i f) := by
  have hslot (j : Nat) : ((s.setSlot i f).slot j).tag = (s.slot j).tag ∧ ((s.setSlot i f).slot j).key = (s.slot j).key := by
    rw [State.slot_setSlot]
    split
    · next h => rw [h.1]; exact hf _
    · exact ⟨rfl, rfl⟩
  intro space off
  obtain ⟨htag, hkey⟩ := hslot ((space - 16) / 2)
  simp only [byteAt, State.setSlot_inbuf, State.setSlot_outbuf, State.setSlot_vtag, State.setSlot_sCurTag,
    State.setSlot_sMkey, htag, hkey]

/-- A written register reads back what it keeps of the value, no other register changes, and no byte does (R27). -/
def ReadsBack (s : State) (n : Nat) (v : Word) : Prop :=
  (readRegister params (writeRegister params s n v) n).toNat =
      (if n = 3 then v.toNat else if n = 6 ∨ (16 ≤ n ∧ n % 2 = 1) then v.toNat % 65536 else v.toNat % 256) ∧
    (∀ m, m ≠ n → readRegister params (writeRegister params s n v) m = readRegister params s m) ∧
    SameBytes s (writeRegister params s n v)

/-- A narrow register keeps the low bits and reads them with zeros above (R27). -/
theorem setWidth_setWidth_toNat (v : Word) {k : Nat} (hk : k ≤ 32) : ((v.setWidth k).setWidth 32).toNat = v.toNat % 2 ^ k := by
  have hlt : v.toNat % 2 ^ k < 2 ^ 32 := (Nat.mod_lt _ (Nat.two_pow_pos k)).trans_le (Nat.pow_le_pow_right two_pos hk)
  rw [BitVec.toNat_setWidth, BitVec.toNat_setWidth, Nat.mod_eq_of_lt hlt]

theorem readsBack_inLen (s : State) (v : Word) : ReadsBack s 3 v := by
  refine ⟨rfl, fun m hm => ?_, SameBytes.refl s⟩
  change readRegister params { s with inLen := v } m = _
  unfold readRegister
  rw [if_neg hm, if_neg hm]
  rfl

theorem readsBack_sCurTagLen (s : State) (v : Word) : ReadsBack s 5 v := by
  refine ⟨setWidth_setWidth_toNat v (k := 8) (by omega), fun m hm => ?_, SameBytes.refl s⟩
  change readRegister params { s with sCurTagLen := v.setWidth 8 } m = _
  unfold readRegister
  rw [if_neg hm, if_neg hm]
  rfl

theorem readsBack_sMkeyLen (s : State) (v : Word) : ReadsBack s 6 v := by
  refine ⟨setWidth_setWidth_toNat v (k := 16) (by omega), fun m hm => ?_, SameBytes.refl s⟩
  change readRegister params { s with sMkeyLen := v.setWidth 16 } m = _
  unfold readRegister
  rw [if_neg hm, if_neg hm]
  rfl

theorem readsBack_sNleg (s : State) (v : Word) : ReadsBack s 7 v := by
  refine ⟨setWidth_setWidth_toNat v (k := 8) (by omega), fun m hm => ?_, SameBytes.refl s⟩
  change readRegister params { s with sNleg := v.setWidth 8 } m = _
  unfold readRegister
  rw [if_neg hm, if_neg hm]
  rfl

/-- A slot with its tag length, or its key length, replaced. -/
def StagedEntry.withTagLen (x : BitVec 8) (e : StagedEntry) : StagedEntry := { e with tagLen := x }

def StagedEntry.withKeyLen (x : BitVec 16) (e : StagedEntry) : StagedEntry := { e with keyLen := x }

theorem readRegister_withTagLen (s : State) (x : BitVec 8) {i m : Nat} (hm : m ≠ 16 + 2 * i) :
    readRegister params (s.setSlot i (StagedEntry.withTagLen x)) m = readRegister params s m := by
  unfold readRegister
  split_ifs with _ _ _ _ _ _ _ hrange heven
  any_goals rfl
  · rw [State.slot_setSlot, if_neg (by omega)]
  · rw [State.slot_setSlot]
    split
    · next h => rw [h.1]; rfl
    · rfl

theorem readRegister_withKeyLen (s : State) (x : BitVec 16) {i m : Nat} (hm : m ≠ 17 + 2 * i) :
    readRegister params (s.setSlot i (StagedEntry.withKeyLen x)) m = readRegister params s m := by
  unfold readRegister
  split_ifs with _ _ _ _ _ _ _ hrange heven
  any_goals rfl
  · rw [State.slot_setSlot]
    split
    · next h => rw [h.1]; rfl
    · rfl
  · rw [State.slot_setSlot, if_neg (by omega)]

theorem readsBack_tagLen {s : State} (v : Word) {i : Nat} (hi : i < 8) (hslots : s.staged.length = 8) :
    ReadsBack s (16 + 2 * i) v := by
  have hwrite : writeRegister params s (16 + 2 * i) v = s.setSlot i (StagedEntry.withTagLen (v.setWidth 8)) :=
    (writeRegister_slot params s i v hi).1
  have hread := (readRegister_slot params (s.setSlot i (StagedEntry.withTagLen (v.setWidth 8))) i hi).1
  rw [State.slot_setSlot, if_pos ⟨rfl, by omega⟩] at hread
  unfold ReadsBack
  rw [hwrite, hread, if_neg (by omega), if_neg (by omega)]
  exact ⟨setWidth_setWidth_toNat v (k := 8) (by omega), fun m hm => readRegister_withTagLen s _ hm,
    sameBytes_setSlot s i fun _ => ⟨rfl, rfl⟩⟩

theorem readsBack_keyLen {s : State} (v : Word) {i : Nat} (hi : i < 8) (hslots : s.staged.length = 8) :
    ReadsBack s (17 + 2 * i) v := by
  have hwrite : writeRegister params s (17 + 2 * i) v = s.setSlot i (StagedEntry.withKeyLen (v.setWidth 16)) :=
    (writeRegister_slot params s i v hi).2
  have hread := (readRegister_slot params (s.setSlot i (StagedEntry.withKeyLen (v.setWidth 16))) i hi).2
  rw [State.slot_setSlot, if_pos ⟨rfl, by omega⟩] at hread
  unfold ReadsBack
  rw [hwrite, hread, if_neg (by omega), if_pos (by omega)]
  exact ⟨setWidth_setWidth_toNat v (k := 16) (by omega), fun m hm => readRegister_withKeyLen s _ hm,
    sameBytes_setSlot s i fun _ => ⟨rfl, rfl⟩⟩

/-- The writable registers are four that stand alone and two for each slot. -/
theorem readsBack_of_writable {s : State} (v : Word) {n : Nat} (hslots : s.staged.length = 8)
    (h : n = 3 ∨ n = 5 ∨ n = 6 ∨ n = 7 ∨ (16 ≤ n ∧ n < 32)) : ReadsBack s n v := by
  obtain rfl | rfl | rfl | rfl | hrange := h
  · exact readsBack_inLen s v
  · exact readsBack_sCurTagLen s v
  · exact readsBack_sMkeyLen s v
  · exact readsBack_sNleg s v
  · obtain heven | hodd : n = 16 + 2 * ((n - 16) / 2) ∨ n = 17 + 2 * ((n - 16) / 2) := by omega
    · rw [heven]; exact readsBack_tagLen v (by omega) hslots
    · rw [hodd]; exact readsBack_keyLen v (by omega) hslots

/-- Settles O10: on an idle machine the host's accesses are `readRegister` and `writeRegister`, taken number by number. -/
theorem registersReadBackByNumber : Obligations.RegistersReadBackByNumber := by
  intro s v hidle hslots
  have hwritten (n : Nat) (hn : n = 3 ∨ n = 5 ∨ n = 6 ∨ n = 7 ∨ (16 ≤ n ∧ n < 32)) :
      (writeRegister params s n v).stBusy = false := by
    rw [writeRegister_stBusy params s v (by omega), hidle]
  simp only [hostReadReg_of_idle hidle, hostWriteReg_of_idle hidle]
  refine ⟨⟨rfl, rfl, rfl, rfl, rfl, rfl, rfl, fun i hi => readRegister_slot params s i hi⟩,
    ⟨rfl, rfl, rfl, rfl, fun i hi => ?_⟩, fun n hn => readRegister_reserved s hn, fun n hn => writeRegister_readOnly s v hn,
    fun n hn => ?_⟩
  · obtain ⟨htag, hkey⟩ := writeRegister_slot params s i v hi
    obtain ⟨htagFrame, htagLength, htagSlot⟩ := setSlot_frame (s := s) (i := i) (by omega) (StagedEntry.withTagLen (v.setWidth 8))
    obtain ⟨hkeyFrame, hkeyLength, hkeySlot⟩ := setSlot_frame (s := s) (i := i) (by omega) (StagedEntry.withKeyLen (v.setWidth 16))
    exact ⟨⟨_, htag, htagFrame, htagLength.trans hslots, htagSlot⟩, ⟨_, hkey, hkeyFrame, hkeyLength.trans hslots, hkeySlot⟩⟩
  · simp only [hostReadReg_of_idle (hwritten n hn)]
    exact readsBack_of_writable v hslots hn

/-! ### Bytes of the spaces -/

/-- `t` is `s` with the byte `b` at one offset of the space with number `space`, as far as bytes go. -/
def BytePut (s : State) (space off : Nat) (b : Byte) (t : State) : Prop :=
  ∀ space' off', byteAt t space' off' = if space' = space ∧ off' = off then b else byteAt s space' off'

theorem bytePut_inbuf {s : State} (h : s.inbuf.wf) (off : Nat) (b : Byte) :
    BytePut s 1 off b { s with inbuf := s.inbuf.write off b } := by
  intro space off'
  by_cases hspace : space = 1
  · subst hspace
    exact (Memory.read_write _ _ _ h off').trans (if_congr (by simp) rfl rfl)
  · rw [if_neg fun hput => hspace hput.1, byteAt, byteAt]
    simp only [if_neg hspace]
    rfl

theorem bytePut_vtag {s : State} (h : s.vtag.wf) (off : Nat) (b : Byte) :
    BytePut s 3 off b { s with vtag := s.vtag.write off b } := by
  intro space off'
  by_cases hspace : space = 3
  · subst hspace
    exact (Memory.read_write _ _ _ h off').trans (if_congr (by simp) rfl rfl)
  · rw [if_neg fun hput => hspace hput.1, byteAt, byteAt]
    simp only [if_neg hspace]
    rfl

theorem bytePut_sCurTag {s : State} (h : s.sCurTag.wf) (off : Nat) (b : Byte) :
    BytePut s 4 off b { s with sCurTag := s.sCurTag.write off b } := by
  intro space off'
  by_cases hspace : space = 4
  · subst hspace
    exact (Memory.read_write _ _ _ h off').trans (if_congr (by simp) rfl rfl)
  · rw [if_neg fun hput => hspace hput.1, byteAt, byteAt]
    simp only [if_neg hspace]
    rfl

theorem bytePut_sMkey {s : State} (h : s.sMkey.wf) (off : Nat) (b : Byte) :
    BytePut s 5 off b { s with sMkey := s.sMkey.write off b } := by
  intro space off'
  by_cases hspace : space = 5
  · subst hspace
    exact (Memory.read_write _ _ _ h off').trans (if_congr (by simp) rfl rfl)
  · rw [if_neg fun hput => hspace hput.1, byteAt, byteAt]
    simp only [if_neg hspace]
    rfl

/-- A slot with one byte of its tag, or of its key, written. -/
def StagedEntry.putTag (off : Nat) (b : Byte) (e : StagedEntry) : StagedEntry := { e with tag := e.tag.write off b }

def StagedEntry.putKey (off : Nat) (b : Byte) (e : StagedEntry) : StagedEntry := { e with key := e.key.write off b }

/-- The bytes of the staging slots, by the number of their space. -/
theorem byteAt_setSlot (s : State) (i : Nat) (f : StagedEntry → StagedEntry) (space off : Nat) :
    byteAt (s.setSlot i f) space off =
      if 16 ≤ space ∧ (space - 16) / 2 = i ∧ i < s.staged.length then
        (if space % 2 = 0 then (f (s.slot i)).tag.read off else (f (s.slot i)).key.read off)
      else byteAt s space off := by
  by_cases hstaged : 16 ≤ space
  · have hnone : ∀ k < 16, space ≠ k := by omega
    simp only [byteAt, hnone 1, hnone 2, hnone 3, hnone 4, hnone 5, Nat.reduceLT, if_false, hstaged, true_and, if_true,
      State.slot_setSlot]
    split_ifs <;> rfl
  · rw [if_neg fun h => hstaged h.1, byteAt, byteAt]
    simp only [if_neg hstaged, if_neg (show ¬ (16 ≤ space ∧ space % 2 = 0) from fun h => hstaged h.1)]
    rfl

theorem byteAt_slot (s : State) (i off : Nat) :
    byteAt s (16 + 2 * i) off = (s.slot i).tag.read off ∧ byteAt s (17 + 2 * i) off = (s.slot i).key.read off := by
  obtain ⟨-, -, -, -, -, hslot⟩ := byteAt_cases s off i
  exact hslot

/-- The offsets the host may write, by the number of their space (R31, R63). -/
def HostWritable (space off : Nat) : Prop :=
  (space = 1 ∧ off < 65535) ∨ (space = 3 ∧ off < 6) ∨ (space = 4 ∧ off < 255) ∨ (space = 5 ∧ off < 256) ∨
    (16 ≤ space ∧ space < 32 ∧ space % 2 = 0 ∧ off < 255) ∨ (16 ≤ space ∧ space < 32 ∧ space % 2 = 1 ∧ off < 256)

theorem bytePut_putTag {s : State} {i : Nat} (hi : i < s.staged.length) (h : (s.slot i).tag.wf) (off : Nat) (b : Byte) :
    BytePut s (16 + 2 * i) off b (s.setSlot i (StagedEntry.putTag off b)) := by
  intro space off'
  rw [byteAt_setSlot]
  by_cases hspace : space = 16 + 2 * i
  · subst hspace
    rw [if_pos (by omega), if_pos (by omega), (byteAt_slot s i off').1]
    exact (Memory.read_write _ _ _ h off').trans (if_congr (by simp) rfl rfl)
  · rw [if_neg (c := space = _ ∧ _) fun hput => hspace hput.1]
    split_ifs with hslot heven
    · omega
    · rw [show space = 17 + 2 * i by omega, (byteAt_slot s i off').2]; rfl
    · rfl

theorem bytePut_putKey {s : State} {i : Nat} (hi : i < s.staged.length) (h : (s.slot i).key.wf) (off : Nat) (b : Byte) :
    BytePut s (17 + 2 * i) off b (s.setSlot i (StagedEntry.putKey off b)) := by
  intro space off'
  rw [byteAt_setSlot]
  by_cases hspace : space = 17 + 2 * i
  · subst hspace
    rw [if_pos (by omega), if_neg (by omega), (byteAt_slot s i off').2]
    exact (Memory.read_write _ _ _ h off').trans (if_congr (by simp) rfl rfl)
  · rw [if_neg (c := space = _ ∧ _) fun hput => hspace hput.1]
    split_ifs with hslot heven
    · rw [show space = 16 + 2 * i by omega, (byteAt_slot s i off').1]; rfl
    · omega
    · rfl

/-- A write to a writable offset puts its byte there (R63). -/
theorem writeBuffer_of_hostWritable {s : State} (hs : SpacesCanonical s) {space off : Nat} (b : Byte)
    (h : HostWritable space off) : BytePut s space off b (writeBuffer params s space off b) := by
  have hwf (i : Nat) (hi : i < 8) : i < s.staged.length ∧ (s.slot i).tag.wf ∧ (s.slot i).key.wf := by
    have hlt : i < s.staged.length := by rw [hs.slots, params_nlegMax]; exact hi
    obtain ⟨htag, -, hkey, -⟩ := hs.staged _ (s.slot_mem i hlt)
    exact ⟨hlt, htag, hkey⟩
  unfold writeBuffer
  rw [params_inMax, params_stagMax, params_mkeyMax, params_lkeyMax, params_nlegMax]
  obtain ⟨rfl, ho⟩ | ⟨rfl, ho⟩ | ⟨rfl, ho⟩ | ⟨rfl, ho⟩ | ⟨hlo, hhi, hpar, ho⟩ | ⟨hlo, hhi, hpar, ho⟩ := h
  · rw [if_pos (by omega)]; exact bytePut_inbuf hs.inbuf.1 off b
  · rw [if_neg (by omega), if_pos (by omega)]; exact bytePut_vtag hs.vtag.1 off b
  · iterate 2 rw [if_neg (by omega)]
    rw [if_pos (by omega)]; exact bytePut_sCurTag hs.sCurTag.1 off b
  · iterate 3 rw [if_neg (by omega)]
    rw [if_pos (by omega)]; exact bytePut_sMkey hs.sMkey.1 off b
  · iterate 4 rw [if_neg (by omega)]
    rw [if_pos (by omega), if_pos hpar, if_pos ho]
    obtain ⟨hlt, htag, -⟩ := hwf ((space - 16) / 2) (by omega)
    have hput := bytePut_putTag hlt htag off b
    rwa [show 16 + 2 * ((space - 16) / 2) = space by omega] at hput
  · iterate 4 rw [if_neg (by omega)]
    rw [if_pos (by omega), if_neg (by omega), if_pos ho]
    obtain ⟨hlt, -, hkey⟩ := hwf ((space - 16) / 2) (by omega)
    have hput := bytePut_putKey hlt hkey off b
    rwa [show 17 + 2 * ((space - 16) / 2) = space by omega] at hput

theorem writeBuffer_of_not_hostWritable (s : State) {space off : Nat} (b : Byte) (h : ¬ HostWritable space off) :
    writeBuffer params s space off b = s := by
  unfold HostWritable at h
  unfold writeBuffer
  rw [params_inMax, params_stagMax, params_mkeyMax, params_lkeyMax, params_nlegMax]
  iterate 4 rw [if_neg (by omega)]
  split_ifs
  any_goals rfl
  all_goals omega

/-- What a byte write can differ in from the state before it: bytes, and no length (R63). -/
theorem hostWriteBuf_frame (p : Config.Params) (s : State) (space off : Nat) (b : Byte) :
    ∃ t, hostWriteBuf p s space off b = t ∧
      t = { s with inbuf := t.inbuf, vtag := t.vtag, sCurTag := t.sCurTag, sMkey := t.sMkey, staged := t.staged } ∧
      t.staged.length = s.staged.length ∧
      ∀ i, (t.slot i).tagLen = (s.slot i).tagLen ∧ (t.slot i).keyLen = (s.slot i).keyLen := by
  have hlengths (i : Nat) {f : StagedEntry → StagedEntry} (hf : ∀ e, (f e).tagLen = e.tagLen ∧ (f e).keyLen = e.keyLen)
      (j : Nat) : ((s.setSlot i f).slot j).tagLen = (s.slot j).tagLen ∧ ((s.setSlot i f).slot j).keyLen = (s.slot j).keyLen := by
    rw [State.slot_setSlot]
    split
    · next h => rw [h.1]; exact hf _
    · exact ⟨rfl, rfl⟩
  refine ⟨_, rfl, ?_⟩
  obtain h | ⟨-, ⟨-, h⟩ | ⟨-, h⟩ | ⟨-, h⟩ | ⟨-, h⟩ | ⟨-, i, h⟩ | ⟨-, i, h⟩⟩ := hostWriteBuf_cases p s space off b <;> rw [h]
  case inr.inr.inr.inr.inr.inl => exact ⟨rfl, s.staged_setSlot_length i _, hlengths i fun _ => ⟨rfl, rfl⟩⟩
  case inr.inr.inr.inr.inr.inr => exact ⟨rfl, s.staged_setSlot_length i _, hlengths i fun _ => ⟨rfl, rfl⟩⟩
  all_goals exact ⟨rfl, rfl, fun _ => ⟨rfl, rfl⟩⟩

theorem readBuffer_eq (s : State) (space off : Nat) :
    readBuffer params s space off =
      if (space = 1 ∧ off < 65535) ∨ (space = 2 ∧ off < 87410) ∨ (space = 3 ∧ off < 6) then byteAt s space off else 0#8 := by
  unfold readBuffer
  rw [params_inMax, params_outMax]
  by_cases hreadable : (space = 1 ∧ off < 65535) ∨ (space = 2 ∧ off < 87410) ∨ (space = 3 ∧ off < 6)
  · rw [if_pos hreadable]
    obtain ⟨rfl, ho⟩ | ⟨rfl, ho⟩ | ⟨rfl, ho⟩ := hreadable
    · exact if_pos ⟨rfl, ho⟩
    · exact (if_neg (by omega)).trans (if_pos ⟨rfl, ho⟩)
    · exact (if_neg (by omega)).trans ((if_neg (by omega)).trans (if_pos ⟨rfl, ho⟩))
  · iterate 4 rw [if_neg (by omega)]

/-- Settles O11. -/
theorem hostBytesGoWhereTheyAreAddressed : Obligations.HostBytesGoWhereTheyAreAddressed := by
  intro s space off b hidle hs
  have hwrite : hostWriteBuf params s space off b = writeBuffer params s space off b := if_neg (by simp [hidle])
  refine ⟨fun space' off' => ?_, hostWriteBuf_frame params s space off b, fun n => ?_,
    (if_neg (by simp [hidle])).trans (readBuffer_eq s space off)⟩
  · rw [hwrite]
    by_cases hwritable : HostWritable space off
    · rw [writeBuffer_of_hostWritable hs b hwritable]
      exact if_congr ⟨fun h => ⟨h.1, h.2, hwritable⟩, fun h => ⟨h.1, h.2.1⟩⟩ rfl rfl
    · rw [writeBuffer_of_not_hostWritable s b hwritable]
      exact (if_neg fun h => hwritable h.2.2).symm
  · obtain ⟨t, ht, hframe, -, hlengths⟩ := hostWriteBuf_frame params s space off b
    have hregisters : SameRegisters s t := by rw [hframe] at hlengths ⊢; exact ⟨rfl, rfl, rfl, rfl, rfl, rfl, rfl, rfl, hlengths⟩
    rw [ht, hregisters.hostReadReg_eq]

/-! ### Reset (R370) -/

theorem slot_reset {s : State} {n : Nat} (h : s.staged = List.replicate n StagedEntry.reset) (i : Nat) :
    s.slot i = StagedEntry.reset := by
  rw [State.slot, h, List.getD_eq_getElem?_getD, List.getElem?_getD_replicate_default_eq]

theorem byteAt_afterReset (p : Config.Params) (s : State) (space off : Nat) : byteAt (s.afterReset p) space off = 0#8 := by
  unfold byteAt
  rw [slot_reset rfl]
  split_ifs <;> rfl

theorem status_afterReset (p : Config.Params) (s : State) : (s.afterReset p).status = 0#32 :=
  BitVec.eq_of_toNat_eq (by rw [status_toNat]; rfl)

theorem hostReadReg_afterReset (p : Config.Params) (s : State) (n : Nat) : hostReadReg p (s.afterReset p) n = 0#32 := by
  rw [hostReadReg_of_idle rfl, readRegister, slot_reset rfl, status_afterReset]
  split_ifs <;> rfl

/-- Settles O13. -/
theorem resetClearsEverything : Obligations.ResetClearsEverything := by
  intro s rest hagenda
  exact ⟨_, step_of_reset hagenda, status_afterReset params s, rfl, rfl, rfl,
    hostReadReg_afterReset params { s with agenda := rest }, byteAt_afterReset params { s with agenda := rest },
    rfl, rfl, rfl, rfl, rfl, rfl, rfl, rfl, rfl, fun i => by rw [slot_reset rfl]; exact ⟨rfl, rfl⟩,
    rfl, rfl, rfl, rfl, rfl, rfl, rfl, rfl, rfl, rfl, rfl⟩

end Sys2Proof.Machine
end
section
/-!
SUPPORT. The phases that end a command (R24, R344, R345), CONFIG as a whole (R130 to R133), the lookup (R25), and the phases RNG,
PAD, TAGPUT and SELECT: the statements O15, O16, O18, O19, O20, O21, O26, O27, O30 and O35.
-/

namespace Sys2Proof.Machine

/-! ### The ends of a command -/

/-- Settles O15: both results fit OUTBUF, so the good end says everything. -/
theorem finishDeliversTheResult : Obligations.FinishDeliversTheResult := by
  intro s hwork
  have hconfig : opcField s.cmdReg = 0x01#8 ↔ s.cmdReg.toNat % 256 = 1 := opcField_eq_iff s.cmdReg 0x01#8
  have hexec : exec .finish s = .next (s.endOk params (if s.cmdReg.toNat % 256 = 1 then [] else s.wk.work)) :=
    congrArg Host.Outcome.next (congrArg _ (if_congr hconfig rfl rfl))
  refine ⟨_, hexec, s.endOk_endedOk params _ ?_ (by simp)⟩
  split
  · exact Nat.zero_le _
  · exact hwork

/-- R332: the code is the kind in the low half and the sub-cause in the high half. -/
theorem ErrorCause.code_eq (e : ErrorCause) : e.code = BitVec.ofNat 8 (e.kind.toNat + 16 * e.sub.toNat) := by
  cases e <;> rfl

/-- Settles O16. -/
theorem idleWaitsAndFailReports : Obligations.IdleWaitsAndFailReports := by
  intro s e
  have hraised : EndedFailed { s with wk := { s.wk with raisedCode := e.code } } s.cmdReg s.stPath e.code
      ((s.raise e).endFailed e.code) := (s.raise e).endFailed_endedFailed e.code
  refine ⟨rfl, ⟨_, rfl, s.endFailed_endedFailed _⟩, rfl, rfl, _, rfl, ?_⟩
  rw [← e.code_eq]
  exact hraised

/-! ### CONFIG -/

/-- The Config that the staging area stands for, field by field (R132). -/
theorem State.stagedConfig_spec (s : State) :
    s.stagedConfig.valid = true ∧ s.stagedConfig.curTag.val = s.sCurTag.readBytes 0 6 ∧
      s.stagedConfig.mkey = s.sMkey.readBytes 0 s.sMkeyLen.toNat ∧ s.stagedConfig.legacy.length = s.sNleg.toNat ∧
      ∀ i < s.sNleg.toNat, ∃ e, s.stagedConfig.legacy[i]? = some e ∧ e.tag.val = (s.slot i).tag.readBytes 0 6 ∧
        e.key = (s.slot i).key.readBytes 0 (s.slot i).keyLen.toNat := by
  refine ⟨rfl, Bytes.ofList_val 6 _ (Memory.readBytes_length ..), rfl, ?_, fun i hi => ⟨(s.slot i).commit, ?_,
    Bytes.ofList_val 6 _ (Memory.readBytes_length ..), rfl⟩⟩
  · simp only [State.stagedConfig, State.stagedUsed, List.length_map, List.length_range]
  · simp only [State.stagedConfig, State.stagedUsed, List.getElem?_map, List.getElem?_range hi, Option.map_some]

/-- Settles O18. -/
theorem commitCopiesTheStagingArea : Obligations.CommitCopiesTheStagingArea := fun s =>
  ⟨_, rfl, rfl, SameBytes.refl s, s.stagedConfig_spec⟩

theorem configWith_of_error {p : Config.Params} {s : State} (hidle : s.stBusy = false) {e : ErrorCause}
    (h : cCheckError p s = some e) :
    ∃ t, configWith p s = .next t ∧ EndedFailed s 0x00000001#32 .noBranch e.code t := by
  have haccepted : cCheckError p (s.accept (commandWord 0x01#8 false)) = some e := h
  rw [configWith, if_neg (by simp [hidle]), configCommand, haccepted]
  exact ⟨_, rfl, s.accept_endFailed 0x00000001#32 .noBranch e.code⟩

theorem configWith_of_none {p : Config.Params} {s : State} (hidle : s.stBusy = false) (h : cCheckError p s = none) :
    configWith p s =
      .next (State.endOk p { s.accept (commandWord 0x01#8 false) with cfg := s.stagedConfig, stPath := .noBranch } []) := by
  have haccepted : cCheckError p (s.accept (commandWord 0x01#8 false)) = none := h
  rw [configWith, if_neg (by simp [hidle]), configCommand, haccepted]
  rfl

/-- Settles O19. -/
theorem configCommitsAValidConfiguration : Obligations.ConfigCommitsAValidConfiguration := by
  intro s hidle hmkey hnleg hslots hcur
  have hchecks : cCheckError params s = none := by
    have hleg : ¬ ∃ i < s.sNleg.toNat, (s.slot i).tagLen.toNat ≠ 6 := fun ⟨i, hi, hne⟩ => hne (hslots i hi).2
    rw [cCheckError_of_withinCapacity hmkey hnleg (fun i hi => (hslots i hi).1), if_neg (not_not.mpr hcur), if_neg hleg]
  exact ⟨_, configWith_of_none hidle hchecks,
    State.accept_endOk params { s with cfg := s.stagedConfig } 0x00000001#32 .noBranch [] (Nat.zero_le _) (by simp),
    s.stagedConfig_spec⟩

/-- Settles O20: the checks are those of C_CHECK (O17). -/
theorem failedConfigKeepsTheConfig : Obligations.FailedConfigKeepsTheConfig := by
  intro s hidle
  refine ⟨fun hover => configWith_of_error hidle (e := .badLen) (cCheckError_of_overCapacity hover),
    fun hmkey hnleg hlkey => ?_⟩
  have hchecks := cCheckError_of_withinCapacity (p := params) hmkey hnleg hlkey
  refine ⟨fun hcur => configWith_of_error hidle (e := .tagLengthCur) ?_,
    fun hcur hleg => configWith_of_error hidle (e := .tagLengthLeg) ?_⟩
  · rw [hchecks, if_pos hcur]
  · rw [hchecks, if_neg (not_not.mpr hcur), if_pos hleg]

/-! ### The lookup -/

/-- The search from the end stops at an entry with the tag that no later entry has. -/
theorem legLookup_of_last {before after : List LegacyEntry} {e : LegacyEntry} {t : Bytes 6} (htag : e.tag = t)
    (hafter : ∀ e' ∈ after, e'.tag ≠ t) : legLookup (before ++ e :: after) t = some e.key := by
  have hnone : after.reverse.find? (fun e' => e'.tag = t) = none :=
    List.find?_eq_none.mpr fun e' he' => by simpa using hafter e' (List.mem_reverse.mp he')
  have hfind : (before ++ e :: after).reverse.find? (fun e' => e'.tag = t) = some e := by
    rw [List.reverse_append, List.reverse_cons, List.append_assoc, List.find?_append, hnone, Option.none_or]
    exact List.find?_cons_of_pos (decide_eq_true htag)
  rw [legLookup, hfind, Option.map_some]

theorem legLookup_eq_none {table : List LegacyEntry} {t : Bytes 6} (h : ∀ e ∈ table, e.tag ≠ t) :
    legLookup table t = none := by
  obtain ⟨e, he, htag, -⟩ | ⟨-, hnone⟩ := legLookup_cases table t
  · exact absurd htag (h e he)
  · exact hnone

/-- Settles O21: the table is cut at the entry, and the entries after it are those of a higher index. -/
theorem lookupTakesTheHighestIndex : Obligations.LookupTakesTheHighestIndex := by
  intro table t
  refine ⟨fun i e he htag hlast => ?_, legLookup_eq_none⟩
  obtain ⟨hi, hget⟩ := List.getElem?_eq_some_iff.mp he
  have htable : table = table.take i ++ e :: table.drop (i + 1) := by
    rw [← hget, ← List.drop_eq_getElem_cons hi, List.take_append_drop]
  rw [htable]
  refine legLookup_of_last htag fun e' he' => ?_
  obtain ⟨k, hk⟩ := List.mem_iff_getElem?.mp he'
  rw [List.getElem?_drop] at hk
  exact hlast (i + 1 + k) e' (by omega) hk

/-! ### RNG, PAD and TAGPUT -/

theorem State.nextDraw_of_answer {s : State} {event : HostEvent} {rest : List HostEvent} {iv : Bytes 16}
    (hagenda : s.agenda = event :: rest) (hanswer : event.answer = some iv) : s.nextDraw = iv := by
  rw [State.nextDraw, hagenda, List.head?_cons, Option.bind_some, hanswer]

/-- Settles O26. -/
theorem rngLoadsTheDraw : Obligations.RngLoadsTheDraw := fun s =>
  ⟨_, rfl, SameBytes.refl s, rfl, fun _ _ hagenda => State.nextDraw_of_answer hagenda rfl,
    fun _ _ _ hagenda => State.nextDraw_of_answer hagenda rfl, fun _ _ => rfl⟩

/-- Settles O27. -/
theorem padAppendsItsOwnCount : Obligations.PadAppendsItsOwnCount := by
  intro s
  have hlength : (spad s.input).length = 16 * (s.inLen.toNat / 16 + 1) := by rw [spad_length, s.input_length]
  exact ⟨_, rfl, SameBytes.refl s, rfl, spadCount s.input.length, spadCount_pos _, spadCount_le _, rfl, hlength⟩

/-- The tag that a command word's V chooses (R216, R253). -/
theorem State.tagFor_vField_val (s : State) (w : Word) :
    (s.tagFor (vField w)).val = if w.getLsbD 8 then s.vtag.readBytes 0 6 else s.cfg.curTag.val := by
  rw [State.tagFor, ← s.override_val]
  exact apply_ite Subtype.val ..

/-- Settles O30. -/
theorem tagputPrefixesTheTag : Obligations.TagputPrefixesTheTag := by
  intro s
  refine ⟨_, rfl, SameBytes.refl s, ?_⟩
  rw [← s.tagFor_vField_val]
  rfl

/-! ### SELECT -/

/-- `ZeroVe` in ASCII (R253). -/
theorem tag_eq_reservedTag_iff (t : Bytes 6) :
    t = Config.reservedTag ↔ t.val = [0x5a#8, 0x65#8, 0x72#8, 0x6f#8, 0x56#8, 0x65#8] := Subtype.ext_iff

theorem zeroVeKey_isSome {s : State} (h : ∃ e ∈ s.cfg.legacy, e.tag = Config.reservedTag) : ∃ lk, s.zeroVeKey = some lk := by
  obtain ⟨e, he, htag⟩ := h
  obtain ⟨e', -, -, hkey⟩ | ⟨hnone, -⟩ := legLookup_cases s.cfg.legacy Config.reservedTag
  · exact ⟨_, hkey⟩
  · exact absurd htag (hnone e he)

/-- What every branch of SELECT leaves as it was, and the expected tag it records (R253). -/
theorem State.selected_spec (s : State) :
    SameBytes s s.selected ∧ s.selected.wk.expected = s.tagFor (vField s.cmdReg) ∧
      s.selected = { s with
        stPath := s.selected.stPath, phase := s.selected.phase
        wk := { s.wk with expected := s.selected.wk.expected, raisedCode := s.selected.wk.raisedCode } } := by
  unfold State.selected
  split_ifs <;> exact ⟨SameBytes.refl s, rfl, rfl⟩

/-- Settles O35: one lemma for each of the three targets. -/
theorem selectDispatches : Obligations.SelectDispatches := by
  intro s
  obtain ⟨hbytes, hexpected, hframe⟩ := s.selected_spec
  refine ⟨_, execSelect_eq s, hbytes, ?_, hframe, ?_, ?_, ?_⟩
  · rw [hexpected, s.tagFor_vField_val]
  all_goals rw [hexpected]
  · intro heq
    rw [State.selected_of_eq heq]
    exact ⟨rfl, rfl, rfl⟩
  · intro hne hzeroVe
    obtain ⟨e, he, htag⟩ := hzeroVe
    obtain ⟨lk, hlk⟩ := zeroVeKey_isSome ⟨e, he, (tag_eq_reservedTag_iff e.tag).mpr htag⟩
    rw [State.selected_of_some hne hlk]
    exact ⟨rfl, rfl, rfl⟩
  · intro hne hnone
    have hother : ∀ e ∈ s.cfg.legacy, e.tag ≠ Config.reservedTag := fun e he =>
      mt (tag_eq_reservedTag_iff e.tag).mp (hnone e he)
    rw [State.selected_of_none hne (legLookup_eq_none hother)]
    exact ⟨rfl, rfl, rfl⟩

end Sys2Proof.Machine
end

section
/-!
SUPPORT. CBC block by block (R193 to R195, R286) and the statements O28, O37 and O44; base64 encoding group by group (R211, R212)
and the statements O29 and O33.
-/

namespace Sys2Proof.Machine

/-! ### Blocks of a string -/

theorem blocks_getElem_val (s : ByteString) {i : Nat} (h : i < (blocks s).length) :
    (blocks s)[i].val = (s.drop (16 * i)).take 16 := by
  rw [blocks_length] at h
  simp only [blocks, pieces, List.getElem_map, List.getElem_range]
  exact Bytes.ofList_val 16 _ (by rw [List.length_take, List.length_drop]; omega)

theorem joinBlocks_block (xs : List (Bytes 16)) {i : Nat} (h : i < xs.length) :
    ((joinBlocks xs).drop (16 * i)).take 16 = xs[i].val := by
  have hcut := blocks_getElem_val (joinBlocks xs) (i := i) (by rwa [blocks_joinBlocks])
  simp only [blocks_joinBlocks] at hcut
  exact hcut.symm

/-- The block before block `i`, where `prev` stands before the first one. -/
theorem joinBlocks_blockBefore (prev : Bytes 16) (xs : List (Bytes 16)) {i : Nat} (h : i < (prev :: xs).length) :
    (prev :: xs)[i].val = if i = 0 then prev.val else ((joinBlocks xs).drop (16 * (i - 1))).take 16 := by
  cases i with
  | zero => rfl
  | succ i => exact (joinBlocks_block xs (Nat.lt_of_succ_lt_succ h)).symm

/-- A block of a prefix of whole blocks. -/
theorem take_block (x : ByteString) {n i : Nat} (hn : n % 16 = 0) (hi : 16 * i < n) :
    ((x.take n).drop (16 * i)).take 16 = (x.drop (16 * i)).take 16 := by
  rw [List.drop_take, List.take_take, Nat.min_eq_left (by omega)]

/-! ### Chaining -/

/-- R193 on blocks: each is chained with the one before it in the list that starts with `C_0`. -/
theorem cbcEncBlocks_getElem (bc : Config.BlockCipher) (k : ByteString) (prev : Bytes 16) (xs : List (Bytes 16)) (i : Nat)
    (h : i < xs.length) :
    (cbcEncBlocks bc k prev xs)[i]'(by rwa [cbcEncBlocks_length]) =
      bc.enc k (xorReg xs[i] ((prev :: cbcEncBlocks bc k prev xs)[i]'(by
        rw [List.length_cons, cbcEncBlocks_length]; omega))) := by
  induction xs generalizing prev i with
  | nil => cases h
  | cons x xs ih =>
    cases i with
    | zero => rfl
    | succ i => exact ih (bc.enc k (xorReg x prev)) i (Nat.lt_of_succ_lt_succ h)

/-- R194 on blocks. -/
theorem cbcDecBlocks_getElem (bc : Config.BlockCipher) (k : ByteString) (prev : Bytes 16) (cs : List (Bytes 16)) (i : Nat)
    (h : i < cs.length) :
    (cbcDecBlocks bc k prev cs)[i]'(by rwa [cbcDecBlocks_length]) =
      xorReg (bc.dec k cs[i]) ((prev :: cs)[i]'(Nat.lt_succ_of_lt h)) := by
  induction cs generalizing prev i with
  | nil => cases h
  | cons c cs ih =>
    cases i with
    | zero => rfl
    | succ i => exact ih c i (Nat.lt_of_succ_lt_succ h)

/-- R193 on strings. -/
theorem cbcEnc_block (bc : Config.BlockCipher) (k : ByteString) (iv : Bytes 16) {x : ByteString} (hx : x.length % 16 = 0)
    {i : Nat} (hi : 16 * i < x.length) :
    ((cbcEnc bc k iv x).drop (16 * i)).take 16 =
      (bc.enc k (Bytes.ofList 16 (xorBytes ((x.drop (16 * i)).take 16)
        (if i = 0 then iv.val else ((cbcEnc bc k iv x).drop (16 * (i - 1))).take 16)))).val := by
  have hblock : i < (blocks x).length := by rw [blocks_length]; omega
  have hlength := cbcEncBlocks_length bc k iv (blocks x)
  rw [cbcEnc_of_aligned _ _ _ _ hx, joinBlocks_block _ (by omega), cbcEncBlocks_getElem _ _ _ _ _ hblock,
    ← blocks_getElem_val x hblock, ← joinBlocks_blockBefore iv _ (by rw [List.length_cons]; omega)]
  exact congrArg (fun y => (bc.enc k y).val) (Bytes.ofList_self (xorReg _ _)).symm

/-- R194 on strings. -/
theorem cbcDec_block {bc : Config.BlockCipher} {k : ByteString} {iv : Bytes 16} {c v : ByteString}
    (h : cbcDec bc k iv c = .ok v) {i : Nat} (hi : 16 * i < c.length) :
    (v.drop (16 * i)).take 16 =
      xorBytes (bc.dec k (Bytes.ofList 16 ((c.drop (16 * i)).take 16))).val
        (if i = 0 then iv.val else (c.drop (16 * (i - 1))).take 16) := by
  obtain ⟨-, herror⟩ | ⟨hc, -⟩ := cbcDec_cases bc k iv c
  · rw [herror] at h; cases h
  have hv : joinBlocks (cbcDecBlocks bc k iv (blocks c)) = v := by
    rw [cbcDec, if_neg (not_not.mpr hc)] at h
    exact Except.ok.inj h
  have hblock : i < (blocks c).length := by rw [blocks_length]; omega
  have hlength := cbcDecBlocks_length bc k iv (blocks c)
  have hbefore := joinBlocks_blockBefore iv (blocks c) (i := i) (by rw [List.length_cons]; omega)
  rw [joinBlocks_blocks c hc] at hbefore
  rw [← hv, joinBlocks_block _ (by omega), cbcDecBlocks_getElem _ _ _ _ _ hblock, ← hbefore, ← blocks_getElem_val c hblock,
    Bytes.ofList_self]
  rfl

/-- Settles O28. -/
theorem cbcEncryptChains : Obligations.CbcEncryptChains := fun s =>
  ⟨_, rfl, SameBytes.refl s, rfl, cbcEnc_length .., fun hx _ hi => cbcEnc_block params.bc s.wk.dkey.val s.wk.ivr hx hi⟩

/-! ### The phases CBCD and L_CBCD -/

/-- The state after CBCD: the error is raised, or WORK takes the string. -/
def State.unchained (s : State) (answer : Except ErrorCause ByteString) : State :=
  match answer with
  | .error e => s.raise e
  | .ok v => { s with wk.work := v, phase := Phase.unpad }

theorem exec_cbcd (s : State) :
    exec .cbcd s = .next (s.unchained (cbcDec params.bc s.wk.dkey.val s.wk.ivr s.wk.work)) := rfl

/-- Settles O37. -/
theorem cbcDecryptUnchains : Obligations.CbcDecryptUnchains := by
  intro s
  refine ⟨_, exec_cbcd s, ?_⟩
  obtain ⟨hpartial, herror⟩ | ⟨haligned, v, hv, hlength⟩ := cbcDec_cases params.bc s.wk.dkey.val s.wk.ivr s.wk.work
  · rw [herror]
    exact ⟨fun _ => s.raise_raised .cbcNotAligned, fun haligned => absurd haligned hpartial⟩
  · rw [hv]
    exact ⟨fun hpartial => absurd haligned hpartial, fun _ =>
      ⟨SameBytes.refl s, rfl, hlength, fun _ hi => cbcDec_block hv hi⟩⟩

/-- The state after L_CBCD when the prefix decrypts to `v`. -/
def State.legacyUnchained (s : State) (v : ByteString) : State :=
  { s with wk.ivr := Bytes.zero 16, wk.work := v, phase := Phase.lTrunc }

theorem exec_lCbcd_of_ok {s : State} {v : ByteString}
    (h : cbcDec params.bc s.wk.lkfit (Bytes.zero 16) (s.wk.work.take s.wk.plen) = .ok v) :
    exec .lCbcd s = .next (s.legacyUnchained v) :=
  congrArg Host.Outcome.next (by rw [h]; rfl)

/-- Settles O44: a prefix of whole blocks decrypts, and its blocks are blocks of WORK. -/
theorem legacyCbcUsesTheZeroIv : Obligations.LegacyCbcUsesTheZeroIv := by
  intro s haligned hprefix
  have hlength : (s.wk.work.take s.wk.plen).length = s.wk.plen := List.length_take_of_le hprefix
  obtain ⟨hpartial, -⟩ | ⟨-, v, hv, hvlength⟩ :=
    cbcDec_cases params.bc s.wk.lkfit (Bytes.zero 16) (s.wk.work.take s.wk.plen)
  · exact absurd (hlength.symm ▸ haligned) hpartial
  refine ⟨_, exec_lCbcd_of_ok hv, SameBytes.refl s, rfl, rfl, hvlength.trans hlength, fun i hi => ?_⟩
  have hblock := cbcDec_block hv (i := i) (hlength.symm ▸ hi)
  rw [take_block _ haligned hi, take_block _ haligned (show 16 * (i - 1) < s.wk.plen by omega)] at hblock
  exact hblock

/-! ### Base64, group by group -/

theorem isBase64Char_b64Char {v : Nat} (hv : v < 64) : IsBase64Char v (b64Char v) := by
  unfold IsBase64Char b64Char
  split_ifs with h26 h52 h62 heq
  · exact .inl ⟨h26, BitVec.toNat_ofNat _ _ |>.trans (Nat.mod_eq_of_lt (by omega))⟩
  · exact .inr (.inl ⟨by omega, h52, BitVec.toNat_ofNat _ _ |>.trans (Nat.mod_eq_of_lt (by omega))⟩)
  · exact .inr (.inr (.inl ⟨by omega, h62, BitVec.toNat_ofNat _ _ |>.trans (Nat.mod_eq_of_lt (by omega))⟩))
  · exact .inr (.inr (.inr (.inl ⟨heq, rfl⟩)))
  · exact .inr (.inr (.inr (.inr ⟨by omega, rfl⟩)))

/-- The number of the group of three bytes at `3*k`, with zeros for those that are missing (R212). -/
def groupNumber (x : ByteString) (k : Nat) : Nat :=
  (x.getD (3 * k) 0#8).toNat * 65536 + (x.getD (3 * k + 1) 0#8).toNat * 256 + (x.getD (3 * k + 2) 0#8).toNat

/-- The four characters at `4*k` of `text` stand for the group of `x` at `3*k`, whose number is `g` (R211, R212). -/
def SpellsGroup (x text : ByteString) (k g : Nat) : Prop :=
  IsBase64Char (g / 262144) (text.getD (4 * k) 0#8) ∧
  IsBase64Char (g / 4096 % 64) (text.getD (4 * k + 1) 0#8) ∧
  (if 3 * k + 1 < x.length then IsBase64Char (g / 64 % 64) (text.getD (4 * k + 2) 0#8)
    else text.getD (4 * k + 2) 0#8 = 0x3d#8) ∧
  (if 3 * k + 2 < x.length then IsBase64Char (g % 64) (text.getD (4 * k + 3) 0#8)
    else text.getD (4 * k + 3) 0#8 = 0x3d#8)

/-- Four characters spell the group in front, those for missing bytes being the pad character. -/
theorem spellsGroup_zero {x text : ByteString} {g : Nat} {c2 c3 : Byte} (hg : g < 2 ^ 24)
    (h2 : c2 = if 1 < x.length then b64Char (g / 64 % 64) else b64Pad)
    (h3 : c3 = if 2 < x.length then b64Char (g % 64) else b64Pad) :
    SpellsGroup x (b64Char (g / 262144 % 64) :: b64Char (g / 4096 % 64) :: c2 :: c3 :: text) 0 g := by
  have hchar (v : Nat) : IsBase64Char (v % 64) (b64Char (v % 64)) := isBase64Char_b64Char (Nat.mod_lt _ (by omega))
  have hhigh : g / 262144 % 64 = g / 262144 := Nat.mod_eq_of_lt (by omega)
  refine ⟨?_, hchar _, ?_, ?_⟩
  · rw [hhigh]
    exact isBase64Char_b64Char (v := g / 262144) (by omega)
  · subst h2
    split_ifs
    · exact hchar _
    · rfl
  · subst h3
    split_ifs
    · exact hchar _
    · rfl

theorem spellsGroup_cons {x text : ByteString} {k g : Nat} (h : SpellsGroup x text k g) (b0 b1 b2 c0 c1 c2 c3 : Byte) :
    SpellsGroup (b0 :: b1 :: b2 :: x) (c0 :: c1 :: c2 :: c3 :: text) (k + 1) g := by
  have hlt (j : Nat) : 3 * (k + 1) + j < (b0 :: b1 :: b2 :: x).length ↔ 3 * k + j < x.length := by
    simp only [List.length_cons]; omega
  unfold SpellsGroup
  simp only [hlt]
  exact h

theorem groupNumber_lt (x : ByteString) (k : Nat) : groupNumber x k < 2 ^ 24 := by
  have h0 := (x.getD (3 * k) 0#8).isLt
  have h1 := (x.getD (3 * k + 1) 0#8).isLt
  have h2 := (x.getD (3 * k + 2) 0#8).isLt
  unfold groupNumber
  omega

/-- The first four characters, by the number of the first group (R212). -/
theorem b64Encode_firstGroup {x : ByteString} (hx : x ≠ []) : ∃ text,
    b64Encode x = b64Char (groupNumber x 0 / 262144 % 64) :: b64Char (groupNumber x 0 / 4096 % 64) ::
      (if 1 < x.length then b64Char (groupNumber x 0 / 64 % 64) else b64Pad) ::
      (if 2 < x.length then b64Char (groupNumber x 0 % 64) else b64Pad) :: text := by
  match x with
  | [b0] =>
    have hg : groupNumber [b0] 0 = b0.toNat * 65536 := by simp [groupNumber]
    rw [hg]
    exact ⟨[], rfl⟩
  | [b0, b1] =>
    have hg : groupNumber [b0, b1] 0 = b0.toNat * 65536 + b1.toNat * 256 := by simp [groupNumber]
    rw [hg]
    exact ⟨[], rfl⟩
  | b0 :: b1 :: b2 :: rest =>
    have hg : groupNumber (b0 :: b1 :: b2 :: rest) 0 = b0.toNat * 65536 + b1.toNat * 256 + b2.toNat := by simp [groupNumber]
    rw [hg, if_pos (by simp), if_pos (by simp)]
    exact ⟨b64Encode rest, rfl⟩

theorem b64Encode_spellsFirstGroup {x : ByteString} (hx : x ≠ []) : SpellsGroup x (b64Encode x) 0 (groupNumber x 0) := by
  obtain ⟨text, htext⟩ := b64Encode_firstGroup hx
  rw [htext]
  exact spellsGroup_zero (groupNumber_lt x 0) rfl rfl

/-- Every group of a string is spelled at its place of the encoded text (R212). -/
theorem b64Encode_spellsGroup : ∀ (x : ByteString) (k : Nat), 3 * k < x.length → SpellsGroup x (b64Encode x) k (groupNumber x k)
  | x, 0, h => b64Encode_spellsFirstGroup (List.ne_nil_of_length_pos h)
  | [], _ + 1, h => absurd h (Nat.not_lt_zero _)
  | [_], k + 1, h => absurd h (by simp only [List.length_cons, List.length_nil]; omega)
  | [_, _], k + 1, h => absurd h (by simp only [List.length_cons, List.length_nil]; omega)
  | b0 :: b1 :: b2 :: rest, k + 1, h =>
    spellsGroup_cons (b64Encode_spellsGroup rest k (by simp only [List.length_cons] at h; omega)) b0 b1 b2 ..

/-- Settles O29. -/
theorem base64EncodesTheIvAndTheCipher : Obligations.Base64EncodesTheIvAndTheCipher := by
  intro s
  have hlength : (b64Encode (s.wk.ivr.val ++ s.wk.work)).length = 4 * ((16 + s.wk.work.length + 2) / 3) := by
    rw [b64Encode_length, List.length_append, s.wk.ivr.property]
  refine ⟨_, rfl, SameBytes.refl s, rfl, rfl, hlength, fun c hc => ?_, ?_⟩
  · obtain hpad | ⟨v, hv, rfl⟩ := mem_b64Encode hc
    · exact .inl hpad
    · exact .inr (by rw [b64Val_b64Char hv]; rfl)
  · rintro k g x rfl hk rfl
    exact b64Encode_spellsGroup _ k hk

/-! ### The ciphertext string (R234, R235) -/

theorem b64Encode_injective {x y : ByteString} (h : b64Encode x = b64Encode y) : x = y := by
  have hdecoded := congrArg (b64Decode params) h
  rw [b64Decode_b64Encode, b64Decode_b64Encode] at hdecoded
  exact Except.ok.inj hdecoded

/-- Settles O33: the IV stands in front of what is encoded, so it can be read back from the string. -/
theorem ciphertextLengthAndIv : Obligations.CiphertextLengthAndIv := by
  intro mkey tag x iv iv'
  refine ⟨encText_length params mkey tag x iv, fun h => ?_, fun h => by rw [h]⟩
  have hencoded := b64Encode_injective (List.append_cancel_left h)
  exact Subtype.ext (List.append_inj_left hencoded (iv.property.trans iv'.property.symm))

end Sys2Proof.Machine
end

section
/-!
SUPPORT. What the base64 decoder gives for each group of four characters, and what it refuses (R213), and the statement O36.
-/

namespace Sys2Proof.Machine

/-! ### Characters -/

/-- The decoder's table is that of R211. -/
theorem isBase64Char_of_b64Val {c : Byte} {v : Nat} (h : b64Val c = some v) : IsBase64Char v c := by
  unfold b64Val at h
  split_ifs at h with hupper hlower hdigit hplus hslash <;> obtain rfl := Option.some.inj h
  · exact .inl ⟨by omega, by omega⟩
  · exact .inr (.inl ⟨by omega, by omega, by omega⟩)
  · exact .inr (.inr (.inl ⟨by omega, by omega, by omega⟩))
  · exact .inr (.inr (.inr (.inl ⟨rfl, hplus⟩)))
  · exact .inr (.inr (.inr (.inr ⟨rfl, hslash⟩)))

theorem isBase64Digit_b64Pad : IsBase64Digit 0 b64Pad := .inr ⟨rfl, rfl⟩

/-! ### One group -/

/-- The number that four six-bit values spell. -/
def sextets (d0 d1 d2 d3 : Nat) : Nat := ((d0 * 64 + d1) * 64 + d2) * 64 + d3

/-- A group of four characters, the last `pads` of them pad characters, and the bytes it decodes to. -/
def DecodedGroup (c0 c1 c2 c3 : Byte) (v : ByteString) : Prop :=
  ∃ d0 d1 d2 d3, IsBase64Digit d0 c0 ∧ IsBase64Digit d1 c1 ∧ IsBase64Digit d2 c2 ∧ IsBase64Digit d3 c3 ∧
    ∀ j < 3, j < v.length →
      (v.getD j 0#8).toNat = sextets d0 d1 d2 d3 / (if j = 0 then 65536 else if j = 1 then 256 else 1) % 256

/-- The bytes of a number, most significant first. -/
theorem beBytes_take_getD {g n j : Nat} (hj : j < ((beBytes 3 g).take n).length) :
    (((beBytes 3 g).take n).getD j 0#8).toNat = g / (if j = 0 then 65536 else if j = 1 then 256 else 1) % 256 := by
  have hbytes : beBytes 3 g = [BitVec.ofNat 8 (g / 65536), BitVec.ofNat 8 (g / 256), BitVec.ofNat 8 (g / 1)] := rfl
  have hlt : j < 3 ∧ j < n := by
    rw [List.length_take, hbytes] at hj
    simp only [List.length_cons, List.length_nil] at hj
    omega
  obtain ⟨h3, hn⟩ := hlt
  rw [List.getD_eq_getElem?_getD, List.getElem?_take_of_lt hn, hbytes]
  interval_cases j <;> exact BitVec.toNat_ofNat _ _

theorem decodedGroup_of_digits {c0 c1 c2 c3 : Byte} {d0 d1 d2 d3 n : Nat} (h0 : b64Val c0 = some d0) (h1 : b64Val c1 = some d1)
    (h2 : IsBase64Digit d2 c2) (h3 : IsBase64Digit d3 c3) :
    DecodedGroup c0 c1 c2 c3 ((beBytes 3 (sextets d0 d1 d2 d3)).take n) :=
  ⟨d0, d1, d2, d3, .inl (isBase64Char_of_b64Val h0), .inl (isBase64Char_of_b64Val h1), h2, h3,
    fun _ _ hj => beBytes_take_getD hj⟩

/-- The decoder asks for a value of every character but the pad characters, which stand for zeros (R213). -/
theorem b64Group_vals {c0 c1 c2 c3 : Byte} {pads g : Nat} (hpads : pads ≤ 2) (h : b64Group [c0, c1, c2, c3] (4 - pads) = some g) :
    ∃ d0 d1 d2 d3, b64Val c0 = some d0 ∧ b64Val c1 = some d1 ∧
      (if pads < 2 then b64Val c2 = some d2 else d2 = 0) ∧ (if pads < 1 then b64Val c3 = some d3 else d3 = 0) ∧
      g = sextets d0 d1 d2 d3 := by
  unfold b64Group at h
  obtain rfl | rfl | rfl : pads = 0 ∨ pads = 1 ∨ pads = 2 := by omega
  all_goals simp [Option.bind_eq_some_iff] at h
  · obtain ⟨d0, h0, d1, d2, d3, ⟨h1, h2, h3⟩, hg⟩ := h
    exact ⟨d0, d1, d2, d3, h0, h1, h2, h3, hg.symm⟩
  · obtain ⟨d0, h0, d1, h1, d2, h2, hg⟩ := h
    exact ⟨d0, d1, d2, 0, h0, h1, h2, rfl, hg.symm⟩
  · obtain ⟨d0, h0, d1, h1, hg⟩ := h
    exact ⟨d0, d1, 0, 0, h0, h1, rfl, rfl, by unfold sextets; omega⟩

/-- The bytes of a group without the strict check of R213's switch. -/
theorem b64DecodeGroup_eq_some {cs v : ByteString} {pads : Nat} (h : b64DecodeGroup false cs pads = some v) :
    ∃ g, b64Group cs (4 - pads) = some g ∧ v = (beBytes 3 g).take (3 - pads) := by
  unfold b64DecodeGroup at h
  split at h
  · cases h
  · next g hg =>
    rw [if_neg (by simp)] at h
    exact ⟨g, hg, (Option.some.inj h).symm⟩

theorem b64Pads_le_two (c2 c3 : Byte) : b64Pads c2 c3 ≤ 2 := by
  unfold b64Pads
  split_ifs <;> omega

theorem b64Pads_lt_two_iff (c2 c3 : Byte) : b64Pads c2 c3 < 2 ↔ ¬ (c2 = b64Pad ∧ c3 = b64Pad) := by
  unfold b64Pads
  split_ifs with htwo <;> simp [htwo]

theorem b64Pads_lt_one_iff (c2 c3 : Byte) : b64Pads c2 c3 < 1 ↔ ¬ c3 = b64Pad := by
  unfold b64Pads
  split_ifs with htwo hone
  · simp [htwo.2]
  · simp [hone]
  · simp [hone]

/-- The last group may end with pad characters. -/
theorem decodedGroup_last {c0 c1 c2 c3 : Byte} {v : ByteString}
    (h : b64DecodeGroup false [c0, c1, c2, c3] (b64Pads c2 c3) = some v) :
    DecodedGroup c0 c1 c2 c3 v ∧ (b64Val c0).isSome ∧ (b64Val c1).isSome := by
  obtain ⟨g, hg, rfl⟩ := b64DecodeGroup_eq_some h
  obtain ⟨d0, d1, d2, d3, h0, h1, h2, h3, rfl⟩ := b64Group_vals (b64Pads_le_two c2 c3) hg
  refine ⟨decodedGroup_of_digits h0 h1 ?_ ?_, by rw [h0]; rfl, by rw [h1]; rfl⟩
  · by_cases htwo : c2 = b64Pad ∧ c3 = b64Pad
    · rw [if_neg (not_imp_not.mpr (b64Pads_lt_two_iff c2 c3).mp (not_not.mpr htwo))] at h2
      rw [htwo.1, h2]
      exact isBase64Digit_b64Pad
    · rw [if_pos ((b64Pads_lt_two_iff c2 c3).mpr htwo)] at h2
      exact .inl (isBase64Char_of_b64Val h2)
  · by_cases hone : c3 = b64Pad
    · rw [if_neg (not_imp_not.mpr (b64Pads_lt_one_iff c2 c3).mp (not_not.mpr hone))] at h3
      rw [hone, h3]
      exact isBase64Digit_b64Pad
    · rw [if_pos ((b64Pads_lt_one_iff c2 c3).mpr hone)] at h3
      exact .inl (isBase64Char_of_b64Val h3)

/-- A group that others follow has no pad character. -/
theorem decodedGroup_inner {c0 c1 c2 c3 : Byte} {v : ByteString} (h : b64DecodeGroup false [c0, c1, c2, c3] 0 = some v) :
    DecodedGroup c0 c1 c2 c3 v ∧ ∀ c ∈ [c0, c1, c2, c3], (b64Val c).isSome := by
  obtain ⟨g, hg, rfl⟩ := b64DecodeGroup_eq_some h
  obtain ⟨d0, d1, d2, d3, h0, h1, h2, h3, rfl⟩ := b64Group_vals (Nat.zero_le 2) hg
  rw [if_pos (by omega)] at h2 h3
  exact ⟨decodedGroup_of_digits h0 h1 (.inl (isBase64Char_of_b64Val h2)) (.inl (isBase64Char_of_b64Val h3)),
    by simp [h0, h1, h2, h3]⟩

/-! ### The whole text -/

/-- Induction over the groups of a text that decodes. -/
theorem b64Groups_induction {P : ByteString → ByteString → Prop} (nil : P [] [])
    (last : ∀ c0 c1 c2 c3 v, b64DecodeGroup false [c0, c1, c2, c3] (b64Pads c2 c3) = some v → P [c0, c1, c2, c3] v)
    (more : ∀ c0 c1 c2 c3 rest x y, rest ≠ [] → b64DecodeGroup false [c0, c1, c2, c3] 0 = some x → P rest y →
      P (c0 :: c1 :: c2 :: c3 :: rest) (x ++ y)) :
    ∀ text v : ByteString, b64Groups false text = some v → P text v
  | [], v, h => Option.some.inj h ▸ nil
  | [c0, c1, c2, c3], v, h => last c0 c1 c2 c3 v h
  | c0 :: c1 :: c2 :: c3 :: d :: rest, v, h => by
    simp only [b64Groups] at h
    split at h
    · next x y hx hy =>
      obtain rfl := Option.some.inj h
      exact more c0 c1 c2 c3 (d :: rest) x y (List.cons_ne_nil d rest) hx (b64Groups_induction nil last more (d :: rest) y hy)
    · cases h
  | [_], v, h => by cases h
  | [_, _], v, h => by cases h
  | [_, _, _], v, h => by cases h

/-- The number of pad characters a text ends with, 2 at most. -/
def padCount (text : ByteString) : Nat :=
  if text.getLast? = some 0x3d#8 then (if text.dropLast.getLast? = some 0x3d#8 then 2 else 1) else 0

theorem padCount_cons (c : Byte) {text : ByteString} (h : 2 ≤ text.length) : padCount (c :: text) = padCount text := by
  match text with
  | d :: e :: rest =>
    have hdrop : (c :: d :: e :: rest).dropLast = c :: d :: (e :: rest).dropLast := rfl
    have hdrop' : (d :: e :: rest).dropLast = d :: (e :: rest).dropLast := rfl
    simp only [padCount, hdrop, hdrop', List.getLast?_cons_cons]

theorem padCount_append_group (c0 c1 c2 c3 : Byte) {text : ByteString} (h : 2 ≤ text.length) :
    padCount (c0 :: c1 :: c2 :: c3 :: text) = padCount text := by
  have hlonger (c : Byte) {s : ByteString} (hs : 2 ≤ s.length) : 2 ≤ (c :: s).length := Nat.le_succ_of_le hs
  rw [padCount_cons c0 (hlonger c1 (hlonger c2 (hlonger c3 h))), padCount_cons c1 (hlonger c2 (hlonger c3 h)),
    padCount_cons c2 (hlonger c3 h), padCount_cons c3 h]

theorem padCount_group (c0 c1 c2 c3 : Byte) : padCount [c0, c1, c2, c3] = b64Pads c2 c3 := by
  have hlast : ([c0, c1, c2, c3] : ByteString).getLast? = some c3 := rfl
  have hbefore : ([c0, c1, c2, c3] : ByteString).dropLast.getLast? = some c2 := rfl
  unfold padCount b64Pads b64Pad
  rw [hlast, hbefore]
  simp only [Option.some.injEq]
  split_ifs <;> tauto

/-- Four characters give three bytes, less one for each pad character (R213). -/
theorem b64Groups_length_eq : ∀ text v : ByteString, b64Groups false text = some v →
    text.length % 4 = 0 ∧ v.length + padCount text = 3 * (text.length / 4) := by
  refine b64Groups_induction ⟨rfl, rfl⟩ (fun c0 c1 c2 c3 v h => ⟨by simp, ?_⟩) (fun c0 c1 c2 c3 rest x y hrest hx ih => ?_)
  · have hle := b64Pads_le_two c2 c3
    rw [padCount_group, b64DecodeGroup_length _ _ _ _ h]
    simp only [List.length_cons, List.length_nil]
    omega
  · obtain ⟨haligned, hlength⟩ := ih
    have hpos := List.length_pos_of_ne_nil hrest
    have hxlength := b64DecodeGroup_length _ _ _ _ hx
    rw [padCount_append_group c0 c1 c2 c3 (by omega)]
    simp only [List.length_cons, List.length_append]
    omega

/-- What R213 says of the group at `4*k` of a text that decodes to `v`. -/
def DecodesGroup (text v : ByteString) (k : Nat) : Prop :=
  ∃ d0 d1 d2 d3, IsBase64Digit d0 (text.getD (4 * k) 0#8) ∧ IsBase64Digit d1 (text.getD (4 * k + 1) 0#8) ∧
    IsBase64Digit d2 (text.getD (4 * k + 2) 0#8) ∧ IsBase64Digit d3 (text.getD (4 * k + 3) 0#8) ∧
    ∀ j < 3, 3 * k + j < v.length →
      (v.getD (3 * k + j) 0#8).toNat =
        (((d0 * 64 + d1) * 64 + d2) * 64 + d3) / (if j = 0 then 65536 else if j = 1 then 256 else 1) % 256

theorem decodesGroup_zero {c0 c1 c2 c3 : Byte} {rest v y : ByteString} (hv : y = [] ∨ v.length = 3)
    (h : DecodedGroup c0 c1 c2 c3 v) : DecodesGroup (c0 :: c1 :: c2 :: c3 :: rest) (v ++ y) 0 := by
  obtain ⟨d0, d1, d2, d3, h0, h1, h2, h3, hbytes⟩ := h
  refine ⟨d0, d1, d2, d3, h0, h1, h2, h3, fun j hj hlt => ?_⟩
  rw [Nat.mul_zero, Nat.zero_add, List.length_append] at hlt
  have hin : j < v.length := by
    obtain rfl | hv := hv
    · simpa using hlt
    · omega
  rw [Nat.mul_zero, Nat.zero_add, List.getD_append _ _ _ _ hin]
  exact hbytes j hj hin

theorem decodesGroup_succ {rest x y : ByteString} {k : Nat} (hx : x.length = 3) (h : DecodesGroup rest y k)
    (c0 c1 c2 c3 : Byte) : DecodesGroup (c0 :: c1 :: c2 :: c3 :: rest) (x ++ y) (k + 1) := by
  obtain ⟨d0, d1, d2, d3, h0, h1, h2, h3, hbytes⟩ := h
  refine ⟨d0, d1, d2, d3, h0, h1, h2, h3, fun j hj hlt => ?_⟩
  have hindex : 3 * (k + 1) + j - x.length = 3 * k + j := by omega
  rw [List.length_append] at hlt
  rw [List.getD_append_right _ _ _ _ (by omega), hindex]
  exact hbytes j hj (by omega)

theorem b64Groups_decodesGroup : ∀ text v : ByteString, b64Groups false text = some v →
    ∀ k, 4 * k < text.length → DecodesGroup text v k := by
  refine b64Groups_induction (fun k hk => absurd hk (Nat.not_lt_zero _)) (fun c0 c1 c2 c3 v h k hk => ?_)
    (fun c0 c1 c2 c3 rest x y _ hx ih k hk => ?_)
  · obtain rfl : k = 0 := by simp only [List.length_cons, List.length_nil] at hk; omega
    have hgroup := decodesGroup_zero (rest := []) (.inl rfl) (decodedGroup_last h).1
    rwa [List.append_nil] at hgroup
  · have hlength : x.length = 3 := b64DecodeGroup_length _ _ _ _ hx
    cases k with
    | zero => exact decodesGroup_zero (.inr hlength) (decodedGroup_inner hx).1
    | succ k =>
      simp only [List.length_cons] at hk
      exact decodesGroup_succ hlength (ih k (by omega)) c0 c1 c2 c3

/-- Only the last two characters of a text that decodes can have no value (R213). -/
theorem b64Groups_vals : ∀ text v : ByteString, b64Groups false text = some v →
    ∀ k, k + 2 < text.length → (b64Val (text.getD k 0#8)).isSome := by
  refine b64Groups_induction (fun k hk => absurd hk (Nat.not_lt_zero _)) (fun c0 c1 c2 c3 v h k hk => ?_)
    (fun c0 c1 c2 c3 rest x y _ hx ih k hk => ?_)
  · obtain ⟨-, h0, h1⟩ := decodedGroup_last h
    simp only [List.length_cons, List.length_nil] at hk
    obtain rfl | rfl : k = 0 ∨ k = 1 := by omega
    · exact h0
    · exact h1
  · obtain ⟨-, hvals⟩ := decodedGroup_inner hx
    by_cases hfirst : k < 4
    · refine hvals _ ?_
      interval_cases k <;> simp
    · obtain ⟨k, rfl⟩ : ∃ k', k = k' + 4 := ⟨k - 4, by omega⟩
      exact ih k (by simp only [List.length_cons] at hk; omega)

/-! ### The phases -/

/-- With both switches of R213 off the whole text is decoded, group by group. -/
theorem b64Decode_params_eq_ok_iff {text v : ByteString} :
    b64Decode params text = .ok v ↔ b64Groups false text = some v := by
  have htext : b64Text params text = text := rfl
  rw [b64Decode, htext, params_b64StrictTrailing]
  constructor
  · intro h
    split_ifs at h
    cases hgroups : b64Groups false text with
    | none => rw [hgroups] at h; cases h
    | some u => rw [hgroups] at h; rw [Except.ok.inj h]
  · intro h
    rw [if_neg (not_not.mpr (b64Groups_length_eq text v h).1), h]

theorem b64Decode_eq_error {text : ByteString} (h : ∀ v, b64Decode params text ≠ .ok v) :
    b64Decode params text = .error .b64Invalid := by
  obtain ⟨v, hv, -⟩ | herror := b64Decode_cases params text
  · exact absurd hv (h v)
  · exact herror

/-- The state after a phase that decodes: the error is raised, or WORK takes the string. -/
def State.decoded (s : State) (target : BitVec 5) (answer : Except ErrorCause ByteString) : State :=
  match answer with
  | .error e => s.raise e
  | .ok v => { s with phase := target, wk := { s.wk with work := v } }

theorem exec_b64d (s : State) : exec .b64d s = .next (s.decoded 18#5 (b64Decode params s.payload)) :=
  congrArg Host.Outcome.next (by cases b64Decode params s.payload <;> rfl)

theorem exec_lB64d (s : State) : exec .lB64d s = .next (s.decoded 23#5 (b64Decode params s.input)) :=
  congrArg Host.Outcome.next (by cases b64Decode params s.input <;> rfl)

theorem State.decoded_of_refused (s : State) (target : BitVec 5) {text : ByteString} (h : ∀ v, b64Decode params text ≠ .ok v) :
    Raised s 0x23#8 (s.decoded target (b64Decode params text)) := by
  rw [b64Decode_eq_error h]
  exact s.raise_raised .b64Invalid

/-- Settles O36: both phases decode their text in the same way. -/
theorem base64PhasesDecode : Obligations.Base64PhasesDecode := by
  intro s i text target hphase
  have hexec : exec i s = .next (s.decoded target (b64Decode params text)) := by
    obtain ⟨rfl, rfl, rfl⟩ | ⟨rfl, rfl, rfl⟩ := hphase
    · exact exec_b64d s
    · exact exec_lB64d s
  refine ⟨_, hexec, fun v hv => ?_, s.decoded_of_refused target, fun hpartial => ?_, fun k hk hnone => ?_⟩
  · have hgroups := b64Decode_params_eq_ok_iff.mp hv
    rw [hv]
    exact ⟨rfl, SameBytes.refl s, (b64Groups_length_eq text v hgroups).2, b64Groups_decodesGroup text v hgroups⟩
  · exact s.decoded_of_refused target fun v hv =>
      hpartial (b64Groups_length_eq text v (b64Decode_params_eq_ok_iff.mp hv)).1
  · refine s.decoded_of_refused target fun v hv => ?_
    have hval := b64Groups_vals text v (b64Decode_params_eq_ok_iff.mp hv) k hk
    rw [hnone] at hval
    cases hval

end Sys2Proof.Machine
end

section
/-!
SUPPORT. The whole commands ENCRYPT and DECRYPT: the errors of their checks (R231, R251, R341), the current path (R250) and
the legacy path (R280), and the statements O32, O39, O40 and O41.
-/

namespace Sys2Proof.Machine

/-! ### ENCRYPT that fails its checks (R231) -/

theorem encryptWith_of_error {p : Config.Params} {s : State} (hidle : s.stBusy = false) {e : ErrorCause}
    (h : eCheckError p s = some e) (iv : Bytes 16) (v : Bool) :
    ∃ t, encryptWith p iv v s = .next t ∧ EndedFailed s (commandWord 0x02#8 v) .noBranch e.code t := by
  have haccepted : eCheckError p (s.accept (commandWord 0x02#8 v)) = some e := h
  rw [encryptWith, if_neg (by simp [hidle]), encryptCommand, haccepted]
  exact ⟨_, rfl, s.accept_endFailed (commandWord 0x02#8 v) .noBranch e.code⟩

/-- Settles O32: each clause makes one check the first that fails. -/
theorem encryptEntryErrors : Obligations.EncryptEntryErrors := by
  intro s i w tag hform hidle
  obtain ⟨v, hexec, rfl, -⟩ := hform.exec_eq
  rw [hexec]
  refine ⟨fun hlong => encryptWith_of_error hidle (e := .badLen) ?_ _ v,
    fun hlen hvalid => encryptWith_of_error hidle (e := .notConfigured) ?_ _ v,
    fun hlen hvalid hkey => encryptWith_of_error hidle (e := .keyTooShort) ?_ _ v⟩ <;> unfold eCheckError
  · rw [if_pos hlong]
  · rw [if_neg (Nat.not_lt.mpr hlen), if_pos hvalid]
  · rw [if_neg (Nat.not_lt.mpr hlen), if_neg (by simp [hvalid])]
    exact if_pos hkey

/-! ### The ends of DECRYPT -/

/-- The command word of DECRYPT or DECRYPT.V and the tag it expects, by V (R92, R253). -/
theorem DecryptForm.exec_eq {s : State} {i : Instr} {w : Word} {tag : ByteString} (h : DecryptForm s i w tag)
    (hidle : s.stBusy = false) :
    ∃ v, exec i s = .next (decryptCommand params v (s.accept w)) ∧ tag = (s.tagFor v).val := by
  obtain ⟨rfl, rfl, rfl⟩ | ⟨rfl, rfl, rfl⟩ := h
  · exact ⟨false, congrArg Host.Outcome.next (if_neg (by simp [hidle])), rfl⟩
  · exact ⟨true, congrArg Host.Outcome.next (if_neg (by simp [hidle])), s.override_val.symm⟩

theorem inputTag_eq_iff (s : State) (t : Bytes 6) : s.inputTag = t ↔ s.inbuf.readBytes 0 6 = t.val := by
  rw [Subtype.ext_iff, s.inputTag_val]

section
variable {p : Config.Params} {v : Bool} {s : State} (w : Word)

theorem decryptCommand_endedFailed_of_check {e : ErrorCause} (h : dCheckError p s = some e) :
    EndedFailed s w .noBranch e.code (decryptCommand p v (s.accept w)) := by
  have hchecks : dCheckError p (s.accept w) = some e := h
  rw [decryptCommand_of_error hchecks]
  exact s.accept_endFailed w .noBranch e.code

/-- A DECRYPT that passes its checks ends with the answer of `decryptText`, on the branch it took (R250). -/
theorem decryptCommand_of_text (hchecks : dCheckError p s = none) {path : Path} {answer : Except ErrorCause ByteString}
    (htext : decryptText p s.cfg s.input (s.tagFor v) = (path, answer)) :
    decryptCommand p v (s.accept w) = State.endWith p { s.accept w with stPath := path } answer :=
  (decryptCommand_of_none (s := s.accept w) hchecks).trans (State.decrypted_eq htext)

theorem decryptCommand_endedFailed (hchecks : dCheckError p s = none) {path : Path} {e : ErrorCause}
    (htext : decryptText p s.cfg s.input (s.tagFor v) = (path, .error e)) :
    EndedFailed s w path e.code (decryptCommand p v (s.accept w)) := by
  rw [decryptCommand_of_text w hchecks htext]
  exact s.accept_endFailed w path e.code

theorem decryptCommand_endedOk (hp : p.Ok) (h32 : p.outMax < 2 ^ 32) (hchecks : dCheckError p s = none) {path : Path}
    {x : ByteString} (htext : decryptText p s.cfg s.input (s.tagFor v) = (path, .ok x)) :
    EndedOk s w path x (decryptCommand p v (s.accept w)) := by
  have hlen : s.inLen.toNat ≤ p.inMax := ((dCheckError_eq_none_iff ..).mp hchecks).1
  have hfits : x.length ≤ p.outMax :=
    calc x.length ≤ s.input.length := decryptText_length_le (by rw [htext])
      _ = s.inLen.toNat := s.input_length
      _ ≤ p.inMax := hlen
      _ ≤ p.outMax := hp.outMax.2
  rw [decryptCommand_of_text w hchecks htext]
  exact State.accept_endOk p s w path x hfits h32

end

/-! ### The errors before decoding (R341) -/

theorem dCheckError_of_long {p : Config.Params} {s : State} (h : p.inMax < s.inLen.toNat) : dCheckError p s = some .badLen :=
  if_pos h

theorem dCheckError_of_unconfigured {p : Config.Params} {s : State} (hlen : s.inLen.toNat ≤ p.inMax)
    (hvalid : s.cfg.valid = false) : dCheckError p s = some .notConfigured := by
  rw [dCheckError, if_neg (Nat.not_lt.mpr hlen), if_pos hvalid]

theorem decryptText_of_short {p : Config.Params} {s : State} (h : s.inLen.toNat < 6) (expected : Bytes 6) :
    decryptText p s.cfg s.input expected = (.noBranch, .error .tagShort) := by
  rw [decryptText, if_pos (by rwa [s.input_length])]

theorem currentDecrypt_of_shortKey {p : Config.Params} {mkey : ByteString} (h : mkey.length < 32) (payload : ByteString) :
    currentDecrypt p mkey payload = .error .keyTooShort := if_pos h

theorem legacyDecrypt_of_longKey {p : Config.Params} {lk : ByteString} (h : 32 < lk.length) (text : ByteString) :
    legacyDecrypt p lk text = .error .legacyKeyTooLong := by
  rw [legacyDecrypt_eq, keyfit_of_lt h]
  rfl

/-- Settles O41: each clause makes one condition the first that fails. -/
theorem decryptErrorsBeforeDecoding : Obligations.DecryptErrorsBeforeDecoding := by
  intro s i w tag hform hidle
  obtain ⟨v, hexec, rfl⟩ := hform.exec_eq hidle
  have htag_iff := inputTag_eq_iff s (s.tagFor v)
  have hchecks (hlen : s.inLen.toNat ≤ params.inMax) (hvalid : s.cfg.valid = true) : dCheckError params s = none :=
    (dCheckError_eq_none_iff params s).mpr ⟨hlen, hvalid⟩
  refine ⟨_, hexec, fun hlong => decryptCommand_endedFailed_of_check w (dCheckError_of_long hlong),
    fun hlen hvalid => decryptCommand_endedFailed_of_check w (dCheckError_of_unconfigured hlen hvalid),
    fun hlen hvalid hshort => decryptCommand_endedFailed w (hchecks hlen hvalid) (decryptText_of_short hshort _),
    fun hlen hvalid hlong htag hkey => ?_, fun hlen hvalid hlong htag hnone => ?_, fun lk hlen hvalid hlong htag hlk hkey => ?_⟩
  all_goals
    have hpass := hchecks hlen hvalid
    obtain ⟨hcurrent, hlegacy, hunsupported⟩ := decryptText_of_tag (p := params) hlong (s.tagFor v)
  · have htext := hcurrent (htag_iff.mpr htag)
    rw [currentDecrypt_of_shortKey hkey] at htext
    exact decryptCommand_endedFailed w hpass htext
  · exact decryptCommand_endedFailed w hpass (hunsupported (mt htag_iff.mp htag) hnone)
  · have htext := hlegacy (mt htag_iff.mp htag) lk hlk
    rw [legacyDecrypt_of_longKey hkey] at htext
    exact decryptCommand_endedFailed w hpass htext

/-! ### The current path (R250, step 3) -/

/-- SUNPAD on a buffer that is not empty, by its last byte (R172, R173). -/
theorem sunpad_eq_ite {b : ByteString} (h : b ≠ []) :
    sunpad b =
      if (b.getLastD 0#8).toNat = 0 ∨ b.length < (b.getLastD 0#8).toNat then .error .paddingInvalid
      else .ok (b.take (b.length - (b.getLastD 0#8).toNat)) := by
  obtain rfl | ⟨init, n, rfl⟩ := List.eq_nil_or_concat b
  · exact absurd rfl h
  · rw [List.concat_eq_append, sunpad_concat, List.getLastD_concat, List.length_append, List.length_singleton]

/-- Whole blocks decrypt. -/
theorem cbcDec_of_aligned (bc : Config.BlockCipher) (k : ByteString) (iv : Bytes 16) {c : ByteString} (h : c.length % 16 = 0) :
    ∃ dec, cbcDec bc k iv c = .ok dec ∧ dec.length = c.length := by
  obtain ⟨hpartial, -⟩ | ⟨-, hok⟩ := cbcDec_cases bc k iv c
  · exact absurd h hpartial
  · exact hok

/-- The current path on a payload that decodes to an IV and whole blocks: what SUNPAD makes of the decrypted blocks. -/
theorem currentDecrypt_of_decoded {p : Config.Params} {mkey payload buf dec : ByteString} (hkey : 32 ≤ mkey.length)
    (hbuf : b64Decode p payload = .ok buf) (hlong : 16 ≤ buf.length)
    (hdec : cbcDec p.bc (p.kdfn mkey (buf.take 16)).val (Bytes.ofList 16 buf) (buf.drop 16) = .ok dec) :
    currentDecrypt p mkey payload = sunpad dec := by
  have hmin : ¬ mkey.length < Config.mkeyMin := Nat.not_lt.mpr hkey
  rw [currentDecrypt_eq, if_neg hmin, hbuf, Except.bind, decryptBuffer, if_neg (Nat.not_lt.mpr hlong), hdec, Except.bind]

/-- Settles O39. -/
theorem decryptTakesTheCurrentPath : Obligations.DecryptTakesTheCurrentPath := by
  intro s i w tag buf hform hidle hlen hvalid hlong htag hkey hbuf hblocks haligned
  obtain ⟨v, hexec, rfl⟩ := hform.exec_eq hidle
  have hpass : dCheckError params s = none := (dCheckError_eq_none_iff params s).mpr ⟨hlen, hvalid⟩
  have hrest : (buf.drop 16).length = buf.length - 16 := List.length_drop
  obtain ⟨dec, hdec, hlength⟩ := cbcDec_of_aligned params.bc (params.kdfn s.cfg.mkey (buf.take 16)).val (Bytes.ofList 16 buf)
    (c := buf.drop 16) (by omega)
  rw [hrest] at hlength
  have htext : decryptText params s.cfg s.input (s.tagFor v) = (.current, sunpad dec) := by
    obtain ⟨hcurrent, -, -⟩ := decryptText_of_tag (p := params) hlong (s.tagFor v)
    rw [hcurrent ((inputTag_eq_iff ..).mpr htag), currentDecrypt_of_decoded (payload := s.payload) hkey hbuf (by omega) hdec]
  rw [sunpad_eq_ite (List.ne_nil_of_length_pos (by omega))] at htext
  refine ⟨_, dec, hexec, hdec, hlength, ?_⟩
  split_ifs at htext ⊢
  · exact decryptCommand_endedFailed w hpass htext
  · exact decryptCommand_endedOk w params_ok (by simp) hpass htext

/-! ### The legacy path (R280) -/

/-- The legacy path on a string that decodes, under a key that fits and with a recorded length inside the prefix. -/
theorem legacyDecrypt_of_decoded {p : Config.Params} (hbits : 120 ≤ p.elenBits) {lk text buf dec : ByteString}
    (hlk : lk.length ≤ 32) (hbuf : b64Decode p text = .ok buf)
    (hdec : cbcDec p.bc (lk ++ zeros (fittedLength lk.length - lk.length)) (Bytes.zero 16)
      (buf.take (prefixLength buf.length)) = .ok dec)
    (hfits : beNat (buf.drop (prefixLength buf.length)) ≤ dec.length) :
    legacyDecrypt p lk text = .ok (dec.take (beNat (buf.drop (prefixLength buf.length)))) := by
  rw [legacyDecrypt_eq, keyfit_of_le hlk, Except.bind, hbuf, Except.bind, legacyBuffer, hdec, Except.bind,
    trailerLength_eq_beNat hbits, ztrunc_of_le hfits]

/-- Settles O40. -/
theorem decryptTakesTheLegacyPath : Obligations.DecryptTakesTheLegacyPath := by
  intro s i w tag buf lk hform hidle hlen hvalid hlong htag hlookup hlk hbuf hfits
  obtain ⟨v, hexec, rfl⟩ := hform.exec_eq hidle
  have hpass : dCheckError params s = none := (dCheckError_eq_none_iff params s).mpr ⟨hlen, hvalid⟩
  have hprefix : (buf.take (prefixLength buf.length)).length = buf.length / 16 * 16 :=
    List.length_take_of_le (Nat.div_mul_le_self ..)
  obtain ⟨dec, hdec, hlength⟩ := cbcDec_of_aligned params.bc (lk ++ zeros (fittedLength lk.length - lk.length)) (Bytes.zero 16)
    (c := buf.take (prefixLength buf.length)) (by omega)
  have htext : decryptText params s.cfg s.input (s.tagFor v) =
      (.legacy, .ok (dec.take (beNat (buf.drop (prefixLength buf.length))))) := by
    obtain ⟨-, hlegacy, -⟩ := decryptText_of_tag (p := params) hlong (s.tagFor v)
    rw [hlegacy (mt (inputTag_eq_iff ..).mp htag) lk hlookup,
      legacyDecrypt_of_decoded (text := s.input) params_elenBits.ge hlk hbuf hdec (hfits.trans_eq (hlength.trans hprefix).symm)]
  exact ⟨_, dec, hexec, hdec, decryptCommand_endedOk w params_ok (by simp) hpass htext⟩

end Sys2Proof.Machine
end
